-- ==== Sys2Proof/Word.lean ====
section
/-! DEFINITION. The words, bytes and named sets that every other file uses: register words, buffer bytes, the three
byte buffers, the four commands, the ten error kinds, the host transaction and the events the outside can send. -/

namespace Sys2Proof

/-- A register word or a host operand: 32 bits (R21, R106). -/
abbrev Word := BitVec 32

/-- One element of a byte buffer (R60). -/
abbrev Byte := BitVec 8

/-- The three byte buffers of R20: `src` (R42), `pix` (R43), `dst` (R44). -/
inductive Buf where
  | src
  | pix
  | dst
  deriving DecidableEq, Repr

/-- The four commands a word written to CMD can name (R91). -/
inductive Command where
  | parse
  | decode
  | encode
  | line
  deriving DecidableEq, Repr

/-- The ten error kinds of R241. Codes 11 to 15 are never produced and have no constructor (U13). -/
inductive Error where
  | truncated
  | notABmp
  | unsupportedHeader
  | unsupportedCompression
  | unsupportedBitDepth
  | unsupportedPlanes
  | invalidDimensions
  | invalidImage
  | capacity
  | illegalCommand
  deriving DecidableEq, Repr

/-- A host operation as the port carries it: the tuple (space, write, addr, wdata) of R106. -/
structure HostOp where
  space : BitVec 2
  write : Bool
  addr : Word
  wdata : Word
  deriving DecidableEq, Repr

/-- What the outside can send to BRT: a host operation (R220) or the reset event (R270). -/
inductive HostEvent where
  | op (t : HostOp)
  | reset
  deriving DecidableEq, Repr

end Sys2Proof
end

