-- ==== Sys2Proof/Config.lean ====
section
/-! DEFINITION. What an implementation of BRT fixes (the three capacities, R7) and the free value the spec leaves open
(the buffers' contents after reset, R47). Nothing here has a value a proof could use. -/

namespace Sys2Proof.Config

open Sys2Proof

/-- Three unknown words out of which the capacities are made: the implementation's choice, unknown to every proof
(R7, D2; DESIGN CHOICE, log entry 4, safe). -/
opaque capSeed : Word × Word × Word

/-- SRC_CAP, with 1 ≤ SRC_CAP ≤ 2^32 − 1 (R7). Every such value is taken by some seed. -/
def capSrc : Word := BitVec.ofNat 32 (max 1 capSeed.1.toNat)

/-- PIX_CAP, with SRC_CAP ≤ PIX_CAP ≤ 2^32 − 1 (R7). -/
def capPix : Word := BitVec.ofNat 32 (max capSrc.toNat capSeed.2.1.toNat)

/-- DST_CAP, with 54 ≤ DST_CAP ≤ 2^32 − 1 (R7). -/
def capDst : Word := BitVec.ofNat 32 (max 54 capSeed.2.2.toNat)

/-- FREE VALUE: the byte that index `i` of buffer `b` holds after the `n`-th reset as long as nothing has written it.
"each byte holds some value that the model must treat as arbitrary", and it is stable, so it is a function of the
place alone (R47, D14, U1; log entry 3, safe). -/
opaque resetByte (n : Nat) (b : Buf) (i : Nat) : Byte

end Sys2Proof.Config
end

