-- ==== Sys2Proof/Syntax.lean ====
section
/-! DEFINITION. The instructions: one constructor for each row of spec/opcode_table.json, the four commands of format
CMD (R91) and the eight host operations of format HOST (R106). -/

namespace Sys2Proof

/-- The instructions of BRT. A command has no operand in its word (R90), its operands are registers (R46). A host
operation carries the operands its rule names: a register address and a word (R221), a buffer index (R223, R224, R227)
and a byte, wdata[7:0] (R222, R225, R227). -/
inductive Instr where
  /-- PARSE, R140. -/
  | parse
  /-- DECODE, R160. -/
  | decode
  /-- ENCODE, R180. -/
  | encode
  /-- LINE, R200. -/
  | line
  /-- RREG, R221: read the register at `addr`. -/
  | rreg (addr : Word)
  /-- WREG, R221: write `v` to the register at `addr`. -/
  | wreg (addr : Word) (v : Word)
  /-- RSRC, R223: read byte `i` of SRC. -/
  | rsrc (i : Word)
  /-- WSRC, R222: write byte `i` of SRC. -/
  | wsrc (i : Word) (b : Byte)
  /-- RPIX, R224: read byte `i` of PIX. -/
  | rpix (i : Word)
  /-- WPIX, R225: write byte `i` of PIX. -/
  | wpix (i : Word) (b : Byte)
  /-- RDST, R227: read byte `i` of DST. -/
  | rdst (i : Word)
  /-- WDST, R227: write byte `i` of DST, which is ignored. -/
  | wdst (i : Word) (b : Byte)
  deriving DecidableEq, Repr

end Sys2Proof
end

