-- ==== Sys2Proof/WellFormed.lean ====
section
/-! DEFINITION. When an instruction is the one spelling of its host transaction. -/

namespace Sys2Proof

/-- A command word of R91: 1, 2, 3 or 4. -/
abbrev isCommandWord (w : Word) : Prop := 1 ≤ w.toNat ∧ w.toNat ≤ 4

/-- The one check: a write of a command word to CMD (register 0) is spelled by the command's own constructor, so
`wreg 0 w` with such a `w` is not well formed (R22, R91; DESIGN CHOICE, log entry 14, safe: its meaning is still the
command's, see `Machine.execWreg`). Every other instruction is well formed with every operand. -/
abbrev WellFormed : Instr → Prop
  | .wreg addr v => ¬ (addr = 0#32 ∧ isCommandWord v)
  | .parse | .decode | .encode | .line => True
  | .rreg _ | .rsrc _ | .wsrc _ _ | .rpix _ | .wpix _ _ | .rdst _ | .wdst _ _ => True

end Sys2Proof
end

