-- ==== Sys2Proof/Decode.lean ====
section
/-! DEFINITION. Decoding a command word (R92) and a host transaction (R106) into an instruction, and the encoder.
Both decoders are total: a word that is no command is refused by its name, IllegalCommand (R93, R249). -/

namespace Sys2Proof

/-- `decode_cmd(w)` of R92. What R92 calls ILLEGAL is the error kind IllegalCommand. -/
def decodeCmd (w : Word) : Except Error Command :=
  if w.extractLsb 31 4 ≠ 0#28 then .error .illegalCommand
  else if w.extractLsb 3 0 = 1#4 then .ok .parse
  else if w.extractLsb 3 0 = 2#4 then .ok .decode
  else if w.extractLsb 3 0 = 3#4 then .ok .encode
  else if w.extractLsb 3 0 = 4#4 then .ok .line
  else .error .illegalCommand

/-- The command word of R91. -/
def cmdWord : Command → Word
  | .parse => 0x00000001#32
  | .decode => 0x00000002#32
  | .encode => 0x00000003#32
  | .line => 0x00000004#32

/-- The instruction a command is. -/
def cmdInstr : Command → Instr
  | .parse => .parse
  | .decode => .decode
  | .encode => .encode
  | .line => .line

/-- The buffer a two-bit space names, none for REG: 0 = REG, 1 = SRC, 2 = PIX, 3 = DST (R106). -/
def bufOfSpace (sp : BitVec 2) : Option Buf :=
  if sp = 0#2 then none
  else if sp = 1#2 then some .src
  else if sp = 2#2 then some .pix
  else some .dst

/-- A REG write: to CMD (register 0, bits 31:5 zero too) it is the command its word names (R22, R92), and a word that
names none stays a register write, whose meaning raises IllegalCommand (R93). -/
def decodeRegWrite (addr wdata : Word) : Instr :=
  if addr = 0#32 then
    match decodeCmd wdata with
    | .ok c => cmdInstr c
    | .error _ => .wreg addr wdata
  else .wreg addr wdata

/-- The byte operand of a buffer write, wdata[7:0] (R106: bits 31:8 are ignored). -/
def byteOperand (wdata : Word) : Byte := wdata.extractLsb 7 0

/-- A host transaction as an instruction (R106). On a read wdata is ignored. -/
def decodeOp (t : HostOp) : Instr :=
  match bufOfSpace t.space, t.write with
  | none, false => .rreg t.addr
  | none, true => decodeRegWrite t.addr t.wdata
  | some .src, false => .rsrc t.addr
  | some .src, true => .wsrc t.addr (byteOperand t.wdata)
  | some .pix, false => .rpix t.addr
  | some .pix, true => .wpix t.addr (byteOperand t.wdata)
  | some .dst, false => .rdst t.addr
  | some .dst, true => .wdst t.addr (byteOperand t.wdata)

/-- A command as the host sends it: its word written to register 0, the tuple (0, 1, 0, word) of R107. -/
def commandOp (w : Word) : HostOp := ⟨0#2, true, 0#32, w⟩

/-- The transaction of an instruction, from R91 and R106. -/
def encode : Instr → HostOp
  | .parse => commandOp (cmdWord .parse)
  | .decode => commandOp (cmdWord .decode)
  | .encode => commandOp (cmdWord .encode)
  | .line => commandOp (cmdWord .line)
  | .rreg addr => ⟨0#2, false, addr, 0#32⟩
  | .wreg addr v => ⟨0#2, true, addr, v⟩
  | .rsrc i => ⟨1#2, false, i, 0#32⟩
  | .wsrc i b => ⟨1#2, true, i, b.zeroExtend 32⟩
  | .rpix i => ⟨2#2, false, i, 0#32⟩
  | .wpix i b => ⟨2#2, true, i, b.zeroExtend 32⟩
  | .rdst i => ⟨3#2, false, i, 0#32⟩
  | .wdst i b => ⟨3#2, true, i, b.zeroExtend 32⟩

/-- The 3-bit key of a transaction, space × 2 + write (R106): space in bits 2:1, write in bit 0. -/
def opKey (t : HostOp) : BitVec 3 := t.space ++ BitVec.ofBool t.write

/-- The transaction with the key `k` and with addr and wdata zero. -/
def keyOp (k : BitVec 3) : HostOp := ⟨k.extractLsb 2 1, k.getLsbD 0, 0#32, 0#32⟩

/-- The transaction a table row's word stands for. A row of format CMD has 32 bits: the word written to CMD. A row of
format HOST has the 3-bit key, one byte when counted in whole bytes: the transaction with that key, addr = wdata = 0.
A key above 7 and a command word above 32 bits do not exist (DESIGN CHOICE, log entry 15, safe). -/
def tableOp (nbits w : Nat) : Option HostOp :=
  if nbits = 32 then (if w < 2 ^ 32 then some (commandOp (BitVec.ofNat 32 w)) else none)
  else if nbits ≤ 8 then (if w < 8 then some (keyOp (BitVec.ofNat 3 w)) else none)
  else none

/-- The instruction the decoder reads from a table row's word: a command word goes through `decode_cmd`, which refuses
what R92 calls ILLEGAL, a key through the transaction's decoder. -/
def decodeTableWord (nbits w : Nat) : Option Instr :=
  if nbits = 32 then
    if w < 2 ^ 32 then
      match decodeCmd (BitVec.ofNat 32 w) with
      | .ok c => some (cmdInstr c)
      | .error _ => none
    else none
  else (tableOp nbits w).map decodeOp

end Sys2Proof
end

