-- ==== Sys2Proof/Machine/State.lean ====
section
/-! DEFINITION. The state of BRT as plain data, the stop reasons and the state after reset. -/

namespace Sys2Proof.Machine

open Sys2Proof

/-- The bytes of one buffer that something has written, as (index, byte) cells with strictly rising indices. An index
that is not listed holds no written byte; what it then reads as is the free value of R47 (`State.byteAt`). -/
structure Memory where
  cells : List Host.Cell
  deriving DecidableEq, Repr

/-- Strictly rising addresses. -/
def Memory.rising : List Host.Cell → Bool
  | [] => true
  | [_] => true
  | c :: d :: rest => decide (c.1 < d.1) && Memory.rising (d :: rest)

/-- The canonical form. An unlisted address holds no written byte, which no entry can equal, so rising addresses are
the whole of it, and two canonical memories with the same written bytes are the same data (log entry 3). -/
abbrev Memory.wf (m : Memory) : Prop := Memory.rising m.cells = true

/-- The memory in which nothing is written. -/
def Memory.empty : Memory := ⟨[]⟩

/-- Why BRT could stop: never. The spec gives every command word, every host operation and every state an effect
(R93, R220, R276: "a meaningless start is an error code, never undefined"), so there is no reason to list
(DEDUCED, log entry 8, safe). The ten error kinds of R241 are next states, `State.raise`. -/
inductive Fault where
  deriving DecidableEq, Repr

/-- Why the model could refuse an instruction. -/
inductive Refusal where
  /-- Raised by an arm of `exec` for an instruction that has no meaning yet; safe. No arm raises it. -/
  | notModelled (mnemonic : String)
  deriving DecidableEq, Repr

/-- The state of BRT: the register file (R21; CMD stores nothing, R22), the three buffers (R42 to R44) and three
fields of the model's own. -/
structure State where
  /-- STATUS, register 1 (R23). -/
  status : Word
  /-- SRC_LEN, register 2, u32 (R24). -/
  srcLen : Word
  /-- IMG_WIDTH, register 3, i32 (R25). -/
  imgWidth : Word
  /-- IMG_HEIGHT, register 4, i32 (R26). -/
  imgHeight : Word
  /-- IMG_FMT, register 5 (R27). -/
  imgFmt : Word
  /-- LINE_X0, register 6, i32 (R28). -/
  lineX0 : Word
  /-- LINE_Y0, register 7, i32 (R28). -/
  lineY0 : Word
  /-- LINE_X1, register 8, i32 (R28). -/
  lineX1 : Word
  /-- LINE_Y1, register 9, i32 (R28). -/
  lineY1 : Word
  /-- ROW_STRIDE, register 10, u32 (R29). -/
  rowStride : Word
  /-- P_OFFSET, register 11, u32 (R31). -/
  pOffset : Word
  /-- P_DIBSIZE, register 12, u32 (R32). -/
  pDibsize : Word
  /-- P_WIDTH, register 13, i32 (R33). -/
  pWidth : Word
  /-- P_HEIGHT, register 14, i32 (R34). -/
  pHeight : Word
  /-- P_BITCNT, register 15 (R35). -/
  pBitcnt : Word
  /-- DST_LEN, register 16, u32 (R36). -/
  dstLen : Word
  /-- CAP_SRC, register 17, u32: the constant SRC_CAP (R37). -/
  capSrc : Word
  /-- CAP_PIX, register 18, u32: the constant PIX_CAP (R37). -/
  capPix : Word
  /-- CAP_DST, register 19, u32: the constant DST_CAP (R37). -/
  capDst : Word
  /-- The buffer SRC (R42). -/
  src : Memory
  /-- The buffer PIX (R43). -/
  pix : Memory
  /-- The buffer DST (R44). -/
  dst : Memory
  /-- The model's own: how many reset events there have been (log entry 3). -/
  resets : Nat
  /-- The model's own: what the outside has issued and BRT has not yet served, oldest first (log entry 1). -/
  inbox : List HostEvent
  /-- The model's own: rdata of the latest host read (R106; log entry 2). -/
  rdata : Word
  deriving DecidableEq, Repr

/-- The state right after reset (R47, R270): every register its reset value, CAP_* their constants (R37), no byte of a
buffer written, nothing issued by the outside. -/
def State.reset : State where
  status := 0#32
  srcLen := 0#32
  imgWidth := 0#32
  imgHeight := 0#32
  imgFmt := 0#32
  lineX0 := 0#32
  lineY0 := 0#32
  lineX1 := 0#32
  lineY1 := 0#32
  rowStride := 0#32
  pOffset := 0#32
  pDibsize := 0#32
  pWidth := 0#32
  pHeight := 0#32
  pBitcnt := 0#32
  dstLen := 0#32
  capSrc := Config.capSrc
  capPix := Config.capPix
  capDst := Config.capDst
  src := Memory.empty
  pix := Memory.empty
  dst := Memory.empty
  resets := 0
  inbox := []
  rdata := 0#32

end Sys2Proof.Machine
end

