-- ==== Sys2Proof/Machine/Flags.lean ====
section
/-! DEFINITION. The flags: the fields of STATUS (R23, R39), the error codes (R241), and the two words a completed
command writes to STATUS (R251, R252). -/

namespace Sys2Proof.Machine

open Sys2Proof

/-- The code of an error kind (R241). -/
def errorCode : Error → BitVec 4
  | .truncated => 1#4
  | .notABmp => 2#4
  | .unsupportedHeader => 3#4
  | .unsupportedCompression => 4#4
  | .unsupportedBitDepth => 5#4
  | .unsupportedPlanes => 6#4
  | .invalidDimensions => 7#4
  | .invalidImage => 8#4
  | .capacity => 9#4
  | .illegalCommand => 10#4

/-- STATUS with BUSY 0, the given DONE, ERR and ERRCODE, and the reserved bits 0 (the layout of R23). -/
def statusWord (done err : Bool) (code : BitVec 4) : Word :=
  0#24 ++ code ++ 0#1 ++ BitVec.ofBool err ++ BitVec.ofBool done ++ 0#1

/-- STATUS after completion with no error (R251). -/
def statusDone : Word := statusWord true false 0#4

/-- STATUS after completion with an error (R252). -/
def statusError (e : Error) : Word := statusWord true true (errorCode e)

/-- STATUS.BUSY, bit 0 (R23). -/
def statusBusy (w : Word) : Bool := w.getLsbD 0

/-- STATUS.DONE, bit 1 (R23). -/
def statusIsDone (w : Word) : Bool := w.getLsbD 1

/-- STATUS.ERR, bit 2 (R23). -/
def statusErr (w : Word) : Bool := w.getLsbD 2

/-- STATUS.ERRCODE, bits 7:4 (R23). -/
def statusErrcode (w : Word) : BitVec 4 := w.extractLsb 7 4

/-- IMG_FMT.TOPDOWN, bit 0 (R27). -/
def fmtTopDown (w : Word) : Bool := w.getLsbD 0

/-- IMG_FMT.BPP4, bit 1 (R27). -/
def fmtBpp4 (w : Word) : Bool := w.getLsbD 1

/-- `bpp(IMG_FMT) = 3 + IMG_FMT.BPP4` (R27). -/
def fmtBpp (w : Word) : Nat := 3 + (fmtBpp4 w).toNat

/-- The word of IMG_FMT for `bpp` bytes per pixel and the origin `td`: (bpp − 3) × 2 + td (R160). -/
def fmtWord (bpp : Nat) (td : Bool) : Word := BitVec.ofNat 32 ((bpp - 3) * 2 + td.toNat)

end Sys2Proof.Machine
end

