-- ==== Sys2Proof/Machine/Ops.lean ====
section
/-! DEFINITION. The named operations over the buffers and over the whole state: reading and writing a byte, the
counted loop of the pseudocode, completing a command, raising an error (the taking of an exception of this hardware,
R252) and the reset event (R270). There is no return from an error: "no return operation and nothing to restore"
(R257). -/

namespace Sys2Proof.Machine

open Sys2Proof

/-- The written byte at address `a` of a list of cells, if any. -/
def Memory.lookup : List Host.Cell → Nat → Option Byte
  | [], _ => none
  | c :: rest, a => if c.1 = a then some c.2 else Memory.lookup rest a

/-- Put the byte `v` at address `a`, keeping the addresses rising. -/
def Memory.insert : List Host.Cell → Nat → Byte → List Host.Cell
  | [], a, v => [(a, v)]
  | c :: rest, a, v =>
    if a < c.1 then (a, v) :: c :: rest
    else if a = c.1 then (a, v) :: rest
    else c :: Memory.insert rest a v

/-- The byte something has written at `a`, none where nothing has. -/
def Memory.get? (m : Memory) (a : Nat) : Option Byte := Memory.lookup m.cells a

/-- The memory with the byte `v` written at `a`. -/
def Memory.set (m : Memory) (a : Nat) (v : Byte) : Memory := ⟨Memory.insert m.cells a v⟩

/-- `MemWrite(B, a, n, bytes)` of R12: the bytes written at a, a + 1, … -/
def Memory.setMany (m : Memory) (a : Nat) : List Byte → Memory
  | [] => m
  | v :: rest => Memory.setMany (m.set a v) (a + 1) rest

/-- `for v in 0 .. n` of R11: the body for v = 0, 1, …, n − 1 in this order. -/
def forRange {α : Type} : Nat → (Nat → α → α) → α → α
  | 0, _, x => x
  | n + 1, body, x => body n (forRange n body x)

/-- The written bytes of a buffer. -/
def State.mem (s : State) : Buf → Memory
  | .src => s.src
  | .pix => s.pix
  | .dst => s.dst

/-- The capacity of a buffer, from its CAP register (R37, R60). -/
def State.cap (s : State) : Buf → Nat
  | .src => s.capSrc.toNat
  | .pix => s.capPix.toNat
  | .dst => s.capDst.toNat

/-- `B[i]` (R11): the byte written last, or, where nothing has written one, the free value of R47. The one read of a
buffer byte that commands and host use (R72). -/
def State.byteAt (s : State) (b : Buf) (i : Nat) : Byte :=
  ((s.mem b).get? i).getD (Config.resetByte s.resets b i)

/-- The state with SRC replaced. -/
def State.withSrc (s : State) (m : Memory) : State := { s with src := m }

/-- The state with PIX replaced. -/
def State.withPix (s : State) (m : Memory) : State := { s with pix := m }

/-- The state with DST replaced. -/
def State.withDst (s : State) (m : Memory) : State := { s with dst := m }

/-- The state with rdata replaced: the answer of a host read (R106), which changes nothing else (R67). -/
def State.answer (s : State) (v : Word) : State := { s with rdata := v }

/-- Completion with no error (R251). -/
def State.complete (s : State) : State := { s with status := statusDone }

/-- Completion with an error, the effect of `raise` (R252): STATUS takes DONE, ERR and the code; no other register, no
buffer byte changes; no state is saved and control goes nowhere. -/
def State.raise (s : State) (e : Error) : State := { s with status := statusError e }

/-- The reset event (R270): every register takes its reset value, CAP_* keep their constants (R37), the contents of
SRC, PIX and DST are unspecified again, so the free value is that of the next reset (R47). What the outside has
already issued stays issued (log entry 6). -/
def State.takeReset (s : State) : State :=
  { State.reset with
    capSrc := s.capSrc, capPix := s.capPix, capDst := s.capDst,
    resets := s.resets + 1, inbox := s.inbox }

end Sys2Proof.Machine
end

