-- ==== Sys2Proof/Machine/Operands.lean ====
section
/-! DEFINITION. The operand forms: register numbers (R21, R221), file fields and their assembly (R100 to R103), the row
stride (R131), the row-flip index (R161), the Image held in registers (R30), the address forms (R68). -/

namespace Sys2Proof.Machine

open Sys2Proof

/-- The implemented registers (R21). -/
inductive RegName where
  | cmd | status | srcLen | imgWidth | imgHeight | imgFmt
  | lineX0 | lineY0 | lineX1 | lineY1
  | rowStride | pOffset | pDibsize | pWidth | pHeight | pBitcnt
  | dstLen | capSrc | capPix | capDst
  deriving DecidableEq, Repr

/-- The register at an address (R21, R106, R221): numbers 0 to 19. Numbers 20 to 31, and every address with a bit set
in 31:5, are reserved: none. -/
def regOfAddr (addr : Word) : Option RegName :=
  match addr.toNat with
  | 0 => some .cmd
  | 1 => some .status
  | 2 => some .srcLen
  | 3 => some .imgWidth
  | 4 => some .imgHeight
  | 5 => some .imgFmt
  | 6 => some .lineX0
  | 7 => some .lineY0
  | 8 => some .lineX1
  | 9 => some .lineY1
  | 10 => some .rowStride
  | 11 => some .pOffset
  | 12 => some .pDibsize
  | 13 => some .pWidth
  | 14 => some .pHeight
  | 15 => some .pBitcnt
  | 16 => some .dstLen
  | 17 => some .capSrc
  | 18 => some .capPix
  | 19 => some .capDst
  | _ => none

/-- The address of a register (R21). -/
def addrOfReg : RegName → Word
  | .cmd => 0#32
  | .status => 1#32
  | .srcLen => 2#32
  | .imgWidth => 3#32
  | .imgHeight => 4#32
  | .imgFmt => 5#32
  | .lineX0 => 6#32
  | .lineY0 => 7#32
  | .lineX1 => 8#32
  | .lineY1 => 9#32
  | .rowStride => 10#32
  | .pOffset => 11#32
  | .pDibsize => 12#32
  | .pWidth => 13#32
  | .pHeight => 14#32
  | .pBitcnt => 15#32
  | .dstLen => 16#32
  | .capSrc => 17#32
  | .capPix => 18#32
  | .capDst => 19#32

/-- The word a host read of a register returns (R21, R221). CMD reads 0 (R22). -/
def State.readReg (s : State) : RegName → Word
  | .cmd => 0#32
  | .status => s.status
  | .srcLen => s.srcLen
  | .imgWidth => s.imgWidth
  | .imgHeight => s.imgHeight
  | .imgFmt => s.imgFmt
  | .lineX0 => s.lineX0
  | .lineY0 => s.lineY0
  | .lineX1 => s.lineX1
  | .lineY1 => s.lineY1
  | .rowStride => s.rowStride
  | .pOffset => s.pOffset
  | .pDibsize => s.pDibsize
  | .pWidth => s.pWidth
  | .pHeight => s.pHeight
  | .pBitcnt => s.pBitcnt
  | .dstLen => s.dstLen
  | .capSrc => s.capSrc
  | .capPix => s.capPix
  | .capDst => s.capDst

/-- The value SRC_LEN takes from a host write of `v`: min(v, SRC_CAP) (R24). -/
def srcLenValue (s : State) (v : Word) : Word := BitVec.ofNat 32 (min v.toNat s.capSrc.toNat)

/-- The value IMG_FMT takes from a host write of `v`: v[1:0] zero-extended (R27, R221). -/
def imgFmtValue (v : Word) : Word := (v.extractLsb 1 0).zeroExtend 32

/-- `u16le(B, a)` (R100). -/
def u16le (B : Nat → Byte) (a : Nat) : Nat := (B a).toNat + 2 ^ 8 * (B (a + 1)).toNat

/-- `u32le(B, a)` (R101). -/
def u32le (B : Nat → Byte) (a : Nat) : Nat :=
  (B a).toNat + 2 ^ 8 * (B (a + 1)).toNat + 2 ^ 16 * (B (a + 2)).toNat + 2 ^ 24 * (B (a + 3)).toNat

/-- `sext_32(v)` (R12): the 32-bit pattern `v` read as two's complement. -/
def sext32 (v : Nat) : Int := if v < 2 ^ 31 then (v : Int) else (v : Int) - 2 ^ 32

/-- `i32le(B, a)` (R102). PRESUMED two's complement, as the spec marks it itself (G3, log entry 11, unsafe). -/
def i32le (B : Nat → Byte) (a : Nat) : Int := sext32 (u32le B a)

/-- `le16(v)` (R103). -/
def le16 (v : Nat) : List Byte := [BitVec.ofNat 8 v, BitVec.ofNat 8 (v / 2 ^ 8)]

/-- The four bytes of a 32-bit word, least significant first. -/
def wordBytes (w : Word) : List Byte :=
  [w.extractLsb 7 0, w.extractLsb 15 8, w.extractLsb 23 16, w.extractLsb 31 24]

/-- `le32(v)` (R103): a negative `v` is first replaced by v + 2^32. -/
def le32 (v : Int) : List Byte := wordBytes (BitVec.ofInt 32 v)

/-- `row_stride(w, bpp)` (R131). -/
def rowStrideOf (w bpp : Nat) : Nat := (w * bpp + 3) / 4 * 4

/-- `canonical_row(r, h, td)` (R161). -/
def canonicalRow (r h : Nat) (td : Bool) : Nat := if td then r else h - 1 - r

/-- `width` of the Image, IMG_WIDTH as i32 (R30). -/
def State.imgW (s : State) : Int := s.imgWidth.toInt

/-- `height` of the Image, IMG_HEIGHT as i32 (R30). -/
def State.imgH (s : State) : Int := s.imgHeight.toInt

/-- `bytes_per_pixel` of the Image (R27, R30). -/
def State.bpp (s : State) : Nat := fmtBpp s.imgFmt

/-- `row_origin` of the Image, true for top_down (R27, R30). -/
def State.topDown (s : State) : Bool := fmtTopDown s.imgFmt

/-- width × height × bytes_per_pixel, exact (R9, R30). -/
def State.imageBytes (s : State) : Int := s.imgW * s.imgH * s.bpp

/-- The index of channel `c` of the pixel (x, y) in an image of width `w`: (y × w + x) × bpp + c (R30, R68). -/
def pixelIndex (w bpp x y c : Nat) : Nat := (y * w + x) * bpp + c

end Sys2Proof.Machine
end

