-- ==== Sys2Proof/Machine/Line.lean ====
section
/-! DEFINITION. The line rasterizer LR: `line_setup` (R202, R203), `plot` (R205), the line loop (R204) and the command
LINE (R200, R210). -/

namespace Sys2Proof.Machine

open Sys2Proof

/-- What `line_setup` reads and initialises (R202), but for the current point. -/
structure LineSetup where
  w : Int
  h : Int
  bpp : Nat
  x0 : Int
  y0 : Int
  x1 : Int
  y1 : Int
  dx : Int
  dy : Int
  sx : Int
  sy : Int
  deriving DecidableEq, Repr

/-- The working registers x, y, err at a loop top (R41, R204). -/
structure LinePoint where
  x : Int
  y : Int
  err : Int
  deriving DecidableEq, Repr

/-- The set-up for a window of w × h pixels of `bpp` bytes and the end points (R202). The differences are exact (D11).
`Int.sign` is 0 at 0, as R203 takes it (DEDUCED, log entry 9, safe: the value at 0 is never used). -/
def lineSetup (w h : Int) (bpp : Nat) (x0 y0 x1 y1 : Int) : LineSetup where
  w := w
  h := h
  bpp := bpp
  x0 := x0
  y0 := y0
  x1 := x1
  y1 := y1
  dx := |x1 - x0|
  dy := -|y1 - y0|
  sx := (x1 - x0).sign
  sy := (y1 - y0).sign

/-- The set-up from the registers (R202); TOPDOWN is not read (R200). -/
def State.lineSetup (s : State) : LineSetup :=
  Sys2Proof.Machine.lineSetup s.imgW s.imgH s.bpp s.lineX0.toInt s.lineY0.toInt s.lineX1.toInt s.lineY1.toInt

/-- The first loop top: x = x0, y = y0, err = dx + dy (R202). -/
def LineSetup.start (l : LineSetup) : LinePoint := ⟨l.x0, l.y0, l.dx + l.dy⟩

/-- Whether a point lies in the window [0, w) × [0, h) (R205). -/
abbrev LineSetup.inside (l : LineSetup) (p : LinePoint) : Prop :=
  0 ≤ p.x ∧ p.x < l.w ∧ 0 ≤ p.y ∧ p.y < l.h

/-- The bytes of an opaque black pixel: B, G, R and, with four bytes per pixel, A (R205). -/
def blackPixel (bpp : Nat) : List Byte :=
  if bpp = 4 then [0x00#8, 0x00#8, 0x00#8, 0xFF#8] else [0x00#8, 0x00#8, 0x00#8]

/-- `plot(x, y)` (R205). -/
def LineSetup.plot (l : LineSetup) (p : LinePoint) (pix : Memory) : Memory :=
  if l.inside p then pix.setMany (pixelIndex l.w.toNat l.bpp p.x.toNat p.y.toNat 0) (blackPixel l.bpp) else pix

/-- The exit test x = x1 and y = y1 (R204). -/
abbrev LineSetup.atEnd (l : LineSetup) (p : LinePoint) : Prop := p.x = l.x1 ∧ p.y = l.y1

/-- The update of R204: both tests use the same e2 = 2 × err, the second update adds to the err the first one may have
changed. PRESUMED, as the spec marks it itself (G1, N1, log entry 7, unsafe): the source says only "per the standard
midpoint rule". -/
def LineSetup.advance (l : LineSetup) (p : LinePoint) : LinePoint :=
  let e2 := 2 * p.err
  let p := if l.dy ≤ e2 then { p with err := p.err + l.dy, x := p.x + l.sx } else p
  if e2 ≤ l.dx then { p with err := p.err + l.dx, y := p.y + l.sy } else p

/-- The line loop (R204): plot, test, update, at most `n` times. -/
def LineSetup.loop (l : LineSetup) : Nat → LinePoint → Memory → Memory
  | 0, _, pix => pix
  | n + 1, p, pix =>
    if l.atEnd p then l.plot p pix else LineSetup.loop l n (l.advance p) (l.plot p pix)

/-- The values of (x, y, err) at the loop tops of the same loop, the "trace" of the line. -/
def LineSetup.trace (l : LineSetup) : Nat → LinePoint → List LinePoint
  | 0, _ => []
  | n + 1, p => if l.atEnd p then [p] else p :: LineSetup.trace l n (l.advance p)

/-- How often the loop body runs: max(dx, −dy) + 1 (R209). It is the bound the loop is run with; that the loop then
ends at (x1, y1) and not before is R209's own claim (DEDUCED, log entry 13). -/
def LineSetup.count (l : LineSetup) : Nat := (max l.dx (-l.dy)).toNat + 1

/-- Whether the Image of the registers does not fit PIX: the check of R210. -/
abbrev State.lineTooBig (s : State) : Prop :=
  0 < s.imgW ∧ 0 < s.imgH ∧ (s.cap .pix : Int) < s.imageBytes

/-- The command LINE run to completion (R200). -/
def State.runLine (s : State) : State :=
  if s.lineTooBig then s.raise .capacity
  else (s.withPix (s.lineSetup.loop s.lineSetup.count s.lineSetup.start s.pix)).complete

/-- LINE (R200). -/
def execLine (s : State) : Host.Outcome State Fault Refusal := .next s.runLine

end Sys2Proof.Machine
end

