-- ==== Sys2Proof/Machine/Parse.lean ====
section
/-! DEFINITION. The header parser and row-stride unit HP: the function `parse` (R141 to R146), `commit_parse` (R147),
and the command PARSE (R140). -/

namespace Sys2Proof.Machine

open Sys2Proof

/-- The geometry record `parse` returns (R141). -/
structure Geometry where
  off : Nat
  dib : Nat
  width : Int
  height : Int
  bitcnt : Nat
  bpp : Nat
  td : Bool
  absH : Nat
  stride : Nat
  deriving DecidableEq, Repr

/-- The geometry the header fields of `S` describe: the fields of R95 and R96, then step 4 of R141 (R104, R105) and the
stride of step 5. The negation of the height is exact (R9). -/
def geometryOf (S : Nat → Byte) : Geometry where
  off := u32le S 10
  dib := u32le S 14
  width := i32le S 18
  height := i32le S 22
  bitcnt := u16le S 28
  bpp := u16le S 28 / 8
  td := decide (i32le S 22 < 0)
  absH := (i32le S 22).natAbs
  stride := rowStrideOf (i32le S 18).toNat (u16le S 28 / 8)

/-- `need`, the bytes of all rows with their padding (R141 step 5, R145), exact. -/
def Geometry.need (g : Geometry) : Nat := g.stride * g.absH

/-- `row_bytes`, width × bytes_per_pixel (R131, R162). -/
def Geometry.rowBytes (g : Geometry) : Nat := g.width.toNat * g.bpp

/-- The checks of R141 steps 3 to 5 on the fields, in their order: compression, bit count, planes, dimensions, size. -/
def checkFields (S : Nat → Byte) (L : Nat) (g : Geometry) : Except Error Geometry :=
  if u32le S 30 ≠ 0 then .error .unsupportedCompression
  else if g.bitcnt ≠ 24 ∧ g.bitcnt ≠ 32 then .error .unsupportedBitDepth
  else if u16le S 26 ≠ 1 then .error .unsupportedPlanes
  else if g.width ≤ 0 ∨ g.absH = 0 then .error .invalidDimensions
  else if L < g.off ∨ L - g.off < g.need then .error .truncated
  else .ok g

/-- `parse(S, L)` of R141: steps 1 and 2, then the checks on the fields. -/
def parse (S : Nat → Byte) (L : Nat) : Except Error Geometry :=
  if L < 14 then .error .truncated
  else if S 0 ≠ 0x42#8 ∨ S 1 ≠ 0x4D#8 then .error .notABmp
  else if L < 18 then .error .truncated
  else if L < 14 + max (u32le S 14) 4 then .error .truncated
  else if u32le S 14 < 40 then .error .unsupportedHeader
  else checkFields S L (geometryOf S)

/-- `parse(SRC, REG.SRC_LEN)`, with the bytes and the length as they are now (R74). -/
def State.parsed (s : State) : Except Error Geometry := parse (s.byteAt .src) s.srcLen.toNat

/-- `commit_parse(g)` (R147). -/
def State.commitParse (s : State) (g : Geometry) : State :=
  { s with
    pOffset := BitVec.ofNat 32 g.off
    pDibsize := BitVec.ofNat 32 g.dib
    pWidth := BitVec.ofInt 32 g.width
    pHeight := BitVec.ofInt 32 g.height
    pBitcnt := BitVec.ofNat 32 g.bitcnt
    rowStride := BitVec.ofNat 32 g.stride }

/-- The command PARSE run to completion (R140). -/
def State.runParse (s : State) : State :=
  match s.parsed with
  | .error e => s.raise e
  | .ok g => (s.commitParse g).complete

/-- PARSE (R140). -/
def execParse (s : State) : Host.Outcome State Fault Refusal := .next s.runParse

end Sys2Proof.Machine
end

