-- ==== Sys2Proof/Machine/RowsIn.lean ====
section
/-! DEFINITION. The row-flip buffer controller RF, inbound: `rows_in` (R162) and the command DECODE (R160). -/

namespace Sys2Proof.Machine

open Sys2Proof

/-- One file row copied to its canonical row: the row's first `row_bytes` bytes, the padding skipped (R162). -/
def rowIn (S : Nat → Byte) (g : Geometry) (row : Nat) (pix : Memory) : Memory :=
  forRange g.rowBytes
    (fun k m => m.set (canonicalRow row g.absH g.td * g.rowBytes + k) (S (g.off + row * g.stride + k))) pix

/-- `rows_in(g)` (R162): the file rows in order, from the bytes `S` of SRC into PIX. -/
def rowsIn (S : Nat → Byte) (g : Geometry) (pix : Memory) : Memory :=
  forRange g.absH (rowIn S g) pix

/-- Step 7 of DECODE: the Image registers (R160). -/
def State.commitImage (s : State) (g : Geometry) : State :=
  { s with
    imgWidth := BitVec.ofInt 32 g.width
    imgHeight := BitVec.ofNat 32 g.absH
    imgFmt := fmtWord g.bpp g.td }

/-- The command DECODE run to completion (R160): everything, or STATUS alone. -/
def State.runDecode (s : State) : State :=
  match s.parsed with
  | .error e => s.raise e
  | .ok g => (((s.commitParse g).commitImage g).withPix (rowsIn (s.byteAt .src) g s.pix)).complete

/-- DECODE (R160). -/
def execDecode (s : State) : Host.Outcome State Fault Refusal := .next s.runDecode

end Sys2Proof.Machine
end

