-- ==== Sys2Proof/Machine/RowsOut.lean ====
section
/-! DEFINITION. Header emission (HP) and the row flip outbound (RF): `encode_check` (R181), `emit_headers` (R182),
`rows_out` (R184) and the command ENCODE (R180). -/

namespace Sys2Proof.Machine

open Sys2Proof

/-- What `encode_check` has computed when it raises nothing (R181). -/
structure EncodePlan where
  w : Nat
  h : Nat
  bpp : Nat
  td : Bool
  deriving DecidableEq, Repr

/-- `stride` of R181. -/
def EncodePlan.stride (p : EncodePlan) : Nat := rowStrideOf p.w p.bpp

/-- `image_size` of R181. -/
def EncodePlan.imageSize (p : EncodePlan) : Nat := p.stride * p.h

/-- `file_size` of R181, with `pixel_offset` = 14 + 40. -/
def EncodePlan.fileSize (p : EncodePlan) : Nat := 14 + 40 + p.imageSize

/-- `rb` of R184, w × bpp. -/
def EncodePlan.rowBytes (p : EncodePlan) : Nat := p.w * p.bpp

/-- `pad` of R184, stride − rb. -/
def EncodePlan.pad (p : EncodePlan) : Nat := p.stride - p.rowBytes

/-- The height field, whose sign encodes the row order (R104, R182). -/
def EncodePlan.heightField (p : EncodePlan) : Int := if p.td then -(p.h : Int) else (p.h : Int)

/-- The plan the Image registers describe (R181, R30). -/
def State.encodePlan (s : State) : EncodePlan := ⟨s.imgW.toNat, s.imgH.toNat, s.bpp, s.topDown⟩

/-- `encode_check` (R181): InvalidImage, then Capacity. -/
def State.encodeCheck (s : State) : Except Error EncodePlan :=
  if s.imgW ≤ 0 ∨ s.imgH ≤ 0 then .error .invalidImage
  else if s.cap .pix < s.encodePlan.w * s.encodePlan.h * s.encodePlan.bpp ∨ s.cap .dst < s.encodePlan.fileSize then
    .error .capacity
  else .ok s.encodePlan

/-- `emit_headers` (R182): the 54 header bytes at DST[0 .. 54). -/
def emitHeaders (p : EncodePlan) (dst : Memory) : Memory :=
  let m := dst.setMany 0 [0x42#8, 0x4D#8]
  let m := m.setMany 2 (le32 p.fileSize)
  let m := m.setMany 6 [0x00#8, 0x00#8, 0x00#8, 0x00#8]
  let m := m.setMany 10 (le32 54)
  let m := m.setMany 14 (le32 40)
  let m := m.setMany 18 (le32 p.w)
  let m := m.setMany 22 (le32 p.heightField)
  let m := m.setMany 26 (le16 1)
  let m := m.setMany 28 (le16 (p.bpp * 8))
  let m := m.setMany 30 (le32 0)
  let m := m.setMany 34 (le32 p.imageSize)
  m.setMany 38 (List.replicate 16 0x00#8)

/-- One file row of DST: the pixel bytes of its canonical row, then the padding zeros (R184). -/
def rowOut (P : Nat → Byte) (p : EncodePlan) (row : Nat) (dst : Memory) : Memory :=
  forRange p.pad (fun k m => m.set (54 + row * p.stride + p.rowBytes + k) 0x00#8)
    (forRange p.rowBytes
      (fun k m => m.set (54 + row * p.stride + k) (P (canonicalRow row p.h p.td * p.rowBytes + k))) dst)

/-- `rows_out` (R184): the file rows in order, from the bytes `P` of PIX into DST. -/
def rowsOut (P : Nat → Byte) (p : EncodePlan) (dst : Memory) : Memory :=
  forRange p.h (rowOut P p) dst

/-- The command ENCODE run to completion (R180). -/
def State.runEncode (s : State) : State :=
  match s.encodeCheck with
  | .error e => s.raise e
  | .ok p =>
    ({ s.withDst (rowsOut (s.byteAt .pix) p (emitHeaders p s.dst)) with
        dstLen := BitVec.ofNat 32 p.fileSize
        rowStride := BitVec.ofNat 32 p.stride }).complete

/-- ENCODE (R180). -/
def execEncode (s : State) : Host.Outcome State Fault Refusal := .next s.runEncode

end Sys2Proof.Machine
end

