-- ==== Sys2Proof/Machine/HostOps.lean ====
section
/-! DEFINITION. The host operations: register read and write (R221), buffer reads and writes (R222 to R227). None of
them raises an error (R220). -/

namespace Sys2Proof.Machine

open Sys2Proof

/-- Run a command to completion (R22). -/
def State.runCommand (s : State) : Command → State
  | .parse => s.runParse
  | .decode => s.runDecode
  | .encode => s.runEncode
  | .line => s.runLine

/-- A write of the word `w` to CMD: the command decode_cmd(w), or IllegalCommand, with nothing executed
(R22, R92, R93, R249). -/
def State.writeCmd (s : State) (w : Word) : State :=
  match decodeCmd w with
  | .ok c => s.runCommand c
  | .error e => s.raise e

/-- `HostRegRead(n)` (R221): 0 for a reserved address. -/
def State.hostRegRead (s : State) (addr : Word) : Word :=
  match regOfAddr addr with
  | some r => s.readReg r
  | none => 0#32

/-- `HostRegWrite(n, v)` (R221): read-only registers and reserved addresses ignore it. -/
def State.hostRegWrite (s : State) (addr v : Word) : State :=
  match regOfAddr addr with
  | some .cmd => s.writeCmd v
  | some .srcLen => { s with srcLen := srcLenValue s v }
  | some .imgWidth => { s with imgWidth := v }
  | some .imgHeight => { s with imgHeight := v }
  | some .imgFmt => { s with imgFmt := imgFmtValue v }
  | some .lineX0 => { s with lineX0 := v }
  | some .lineY0 => { s with lineY0 := v }
  | some .lineX1 => { s with lineX1 := v }
  | some .lineY1 => { s with lineY1 := v }
  | some .status | some .rowStride | some .pOffset | some .pDibsize | some .pWidth | some .pHeight | some .pBitcnt
  | some .dstLen | some .capSrc | some .capPix | some .capDst => s
  | none => s

/-- The word a host read of byte `i` of a buffer returns: the byte zero-extended, 0 at an index ≥ the capacity
(R62, R223, R224, R227). -/
def State.hostByteRead (s : State) (b : Buf) (i : Word) : Word :=
  if i.toNat < s.cap b then (s.byteAt b i.toNat).zeroExtend 32 else 0#32

/-- RREG (R221). -/
def execRreg (addr : Word) (s : State) : Host.Outcome State Fault Refusal := .next (s.answer (s.hostRegRead addr))

/-- WREG (R221). -/
def execWreg (addr v : Word) (s : State) : Host.Outcome State Fault Refusal := .next (s.hostRegWrite addr v)

/-- RSRC (R223). -/
def execRsrc (i : Word) (s : State) : Host.Outcome State Fault Refusal := .next (s.answer (s.hostByteRead .src i))

/-- WSRC (R222): ignored at an index ≥ SRC_CAP (R62). SRC_LEN is not changed. -/
def execWsrc (i : Word) (b : Byte) (s : State) : Host.Outcome State Fault Refusal :=
  .next (if i.toNat < s.cap .src then s.withSrc (s.src.set i.toNat b) else s)

/-- RPIX (R224). -/
def execRpix (i : Word) (s : State) : Host.Outcome State Fault Refusal := .next (s.answer (s.hostByteRead .pix i))

/-- WPIX (R225): ignored at an index ≥ PIX_CAP (R62). -/
def execWpix (i : Word) (b : Byte) (s : State) : Host.Outcome State Fault Refusal :=
  .next (if i.toNat < s.cap .pix then s.withPix (s.pix.set i.toNat b) else s)

/-- RDST (R227). -/
def execRdst (i : Word) (s : State) : Host.Outcome State Fault Refusal := .next (s.answer (s.hostByteRead .dst i))

/-- WDST (R227): a host write to DST is ignored at every index. -/
def execWdst (_i : Word) (_b : Byte) (s : State) : Host.Outcome State Fault Refusal := .next s

end Sys2Proof.Machine
end

