-- ==== Sys2Proof/Machine/Dispatch.lean ====
section
/-! DEFINITION. One arm per instruction, each one direct call of its meaning. -/

namespace Sys2Proof.Machine

open Sys2Proof

def exec (i : Instr) (s : State) : Host.Outcome State Fault Refusal :=
  match i with
  | .parse => Sys2Proof.Machine.execParse s
  | .decode => Sys2Proof.Machine.execDecode s
  | .encode => Sys2Proof.Machine.execEncode s
  | .line => Sys2Proof.Machine.execLine s
  | .rreg addr => Sys2Proof.Machine.execRreg addr s
  | .wreg addr v => Sys2Proof.Machine.execWreg addr v s
  | .rsrc k => Sys2Proof.Machine.execRsrc k s
  | .wsrc k b => Sys2Proof.Machine.execWsrc k b s
  | .rpix k => Sys2Proof.Machine.execRpix k s
  | .wpix k b => Sys2Proof.Machine.execWpix k b s
  | .rdst k => Sys2Proof.Machine.execRdst k s
  | .wdst k b => Sys2Proof.Machine.execWdst k b s

end Sys2Proof.Machine
end

