-- ==== Sys2Proof/Machine/Fetch.lean ====
section
/-! DEFINITION. Where the next instruction comes from: the oldest event of the inbox (R220; log entry 1), and how a
host operation is put there. -/

namespace Sys2Proof.Machine

open Sys2Proof

/-- The state whose oldest pending event is the host operation `t`. -/
def State.push (s : State) (t : HostOp) : State := { s with inbox := .op t :: s.inbox }

/-- The state with the oldest pending event taken off. -/
def State.pop (s : State) : State := { s with inbox := s.inbox.tail }

/-- The state that has the transaction of a table row's word as its oldest pending event; unchanged for a word that is
no row's (`tableOp`). -/
def State.pushTableWord (s : State) (nbits w : Nat) : State :=
  match tableOp nbits w with
  | some t => s.push t
  | none => s

end Sys2Proof.Machine
end

