-- ==== Sys2Proof/Machine/Step.lean ====
section
/-! DEFINITION. One step of BRT: serve the oldest pending event of the outside. -/

namespace Sys2Proof.Machine

open Sys2Proof

/-- One step. With nothing pending BRT is idle and waits for the host (R40, R270). A host operation is decoded and run
to completion, one atomic step (R71, R220). A reset event resets (R270). -/
def step (s : State) : Host.Outcome State Fault Refusal :=
  match s.inbox with
  | [] => .next s
  | .reset :: _ => .next s.pop.takeReset
  | .op t :: _ => exec (decodeOp t) s.pop

/-- The state in which the next step runs the instruction of a table row's word: its transaction is the oldest pending
event (log entries 1 and 15). -/
def State.withFetchWord (s : State) (nbits w : Nat) : State := s.pushTableWord nbits w

end Sys2Proof.Machine
end

