-- ==== Sys2Proof/Machine/Script.lean ====
section
/-! DEFINITION. The host-script notation (R107) and the pseudo-operations (R108) as lists of host operations, and how the
host issues a list. Nothing of the machine depends on this file; it is the host's side. -/

namespace Sys2Proof.Machine

open Sys2Proof

/-- `WREG name, value` (R107). -/
def wregOp (r : RegName) (v : Word) : HostOp := ⟨0#2, true, addrOfReg r, v⟩

/-- `RREG name` (R107). -/
def rregOp (r : RegName) : HostOp := ⟨0#2, false, addrOfReg r, 0#32⟩

/-- `CMD mnemonic` (R107). -/
def cmdOp (c : Command) : HostOp := commandOp (cmdWord c)

/-- `WSRC`, `WPIX` or `WDST index, b0 b1 ...` for the space `sp` (R107): one operation per byte, at index, index + 1, … -/
def writeOps (sp : BitVec 2) (index : Nat) : List Byte → List HostOp
  | [] => []
  | b :: rest => ⟨sp, true, BitVec.ofNat 32 index, b.zeroExtend 32⟩ :: writeOps sp (index + 1) rest

/-- `RSRC`, `RPIX` or `RDST index, n` for the space `sp` (R107): one operation per byte. -/
def readOps (sp : BitVec 2) (index : Nat) : Nat → List HostOp
  | 0 => []
  | n + 1 => ⟨sp, false, BitVec.ofNat 32 index, 0#32⟩ :: readOps sp (index + 1) n

/-- `LOADSRC b0 b1 ... b(n−1)` (R108). -/
def loadSrc (bytes : List Byte) : List HostOp :=
  writeOps 1#2 0 bytes ++ [wregOp .srcLen (BitVec.ofNat 32 bytes.length)]

/-- `SETIMG w, h, bpp, origin` (R108), `td` true for top_down. -/
def setImg (w h : Int) (bpp : Nat) (td : Bool) : List HostOp :=
  [wregOp .imgWidth (BitVec.ofInt 32 w), wregOp .imgHeight (BitVec.ofInt 32 h), wregOp .imgFmt (fmtWord bpp td)]

/-- `DRAW x0, y0, x1, y1` (R108). -/
def draw (x0 y0 x1 y1 : Int) : List HostOp :=
  [wregOp .lineX0 (BitVec.ofInt 32 x0), wregOp .lineY0 (BitVec.ofInt 32 y0), wregOp .lineX1 (BitVec.ofInt 32 x1),
    wregOp .lineY1 (BitVec.ofInt 32 y1), cmdOp .line]

/-- `SETPIXEL x, y, b, g, r[, a]` (R108) on an image of width `w` with `bpp` bytes per pixel. -/
def setPixel (w bpp x y : Nat) (channels : List Byte) : List HostOp :=
  writeOps 2#2 (pixelIndex w bpp x y 0) channels

/-- The read of DST[i] and the write of the byte read to SRC[i], for i = index, index + 1, … (R108, COPYBACK). -/
def copyOps (s : State) (index : Nat) : Nat → List HostOp
  | 0 => []
  | n + 1 =>
    ⟨3#2, false, BitVec.ofNat 32 index, 0#32⟩
      :: ⟨1#2, true, BitVec.ofNat 32 index, (s.byteAt .dst index).zeroExtend 32⟩
      :: copyOps s (index + 1) n

/-- `COPYBACK` (R108) as the host issues it in state `s`: it copies DST[0 .. DST_LEN) to SRC and sets SRC_LEN. -/
def copyBack (s : State) : List HostOp := copyOps s 0 s.dstLen.toNat ++ [wregOp .srcLen s.dstLen]

/-- The host issues operations, after all it has issued before (R220: "in the order the host issues them"). -/
def State.issue (s : State) (ops : List HostOp) : State := { s with inbox := s.inbox ++ ops.map .op }

end Sys2Proof.Machine
end

