-- ==== Sys2Proof/Safety.lean ====
section
/-! DEFINITION. The terms claims are stated in: the invariant of every step, the Image predicate ImageValid, the
priority table of `parse`, which errors a command can raise, and when two states show the same file or Image. -/

namespace Sys2Proof.Machine

open Sys2Proof

/-- The constraints on the capacities (R7): 1 ≤ SRC_CAP ≤ PIX_CAP, 54 ≤ DST_CAP, all below 2^32 by their width. -/
abbrev CapsOk (s : State) : Prop :=
  1 ≤ s.capSrc.toNat ∧ s.capSrc.toNat ≤ s.capPix.toNat ∧ 54 ≤ s.capDst.toNat

/-- STATUS as the host can see it (R23, R241): BUSY and the reserved bits 0, ERR exactly when ERRCODE ≠ 0, an error only
with DONE, no code above 10. -/
abbrev StatusLegal (w : Word) : Prop :=
  statusBusy w = false ∧ w &&& 0xFFFFFF08#32 = 0#32 ∧ (statusErr w = true ↔ statusErrcode w ≠ 0#4) ∧
    (statusErr w = true → statusIsDone w = true) ∧ (statusErrcode w).toNat ≤ 10

/-- IMG_FMT bits 31:2 read 0 (R27). -/
abbrev FmtLegal (w : Word) : Prop := w &&& 0xFFFFFFFC#32 = 0#32

/-- The parse result registers are all at reset, or hold what a successful parse can return (R31 to R35, R146). -/
abbrev ParsedLegal (s : State) : Prop :=
  (s.pOffset = 0#32 ∧ s.pDibsize = 0#32 ∧ s.pWidth = 0#32 ∧ s.pHeight = 0#32 ∧ s.pBitcnt = 0#32) ∨
  (s.pOffset.toNat + 4 ≤ s.capSrc.toNat ∧ 40 ≤ s.pDibsize.toNat ∧ 14 + s.pDibsize.toNat ≤ s.capSrc.toNat ∧
    1 ≤ s.pWidth.toInt ∧ s.pHeight.toInt ≠ 0 ∧ (s.pBitcnt = 24#32 ∨ s.pBitcnt = 32#32))

/-- A buffer is in canonical form and nothing is written at or beyond its capacity (R62). -/
abbrev BufferOk (m : Memory) (cap : Nat) : Prop := m.wf ∧ ∀ c ∈ m.cells, c.1 < cap

/-- The invariant every step keeps. -/
abbrev StateInv (s : State) : Prop :=
  CapsOk s ∧ StatusLegal s.status ∧ s.srcLen.toNat ≤ s.capSrc.toNat ∧ FmtLegal s.imgFmt ∧ ParsedLegal s ∧
    s.rowStride.toNat % 4 = 0 ∧ s.dstLen.toNat ≤ s.capDst.toNat ∧
    BufferOk s.src (s.cap .src) ∧ BufferOk s.pix (s.cap .pix) ∧ BufferOk s.dst (s.cap .dst)

/-- ImageValid (R48): the Image of the registers has a positive width and height and fits PIX. -/
abbrev ImageValid (s : State) : Prop := 0 < s.imgW ∧ 0 < s.imgH ∧ s.imageBytes ≤ (s.cap .pix : Int)

/-- The ten checks of `parse` in the order of R254, each with whether it FAILS and the error it then raises. -/
def parseChecks (S : Nat → Byte) (L : Nat) : List (Bool × Error) :=
  [(decide (L < 14), .truncated),
   (decide (¬ (S 0 = 0x42#8 ∧ S 1 = 0x4D#8)), .notABmp),
   (decide (L < 18), .truncated),
   (decide (L < 14 + u32le S 14 ∨ L < 14 + 4), .truncated),
   (decide (u32le S 14 < 40), .unsupportedHeader),
   (decide (u32le S 30 ≠ 0), .unsupportedCompression),
   (decide (¬ (u16le S 28 = 24 ∨ u16le S 28 = 32)), .unsupportedBitDepth),
   (decide (u16le S 26 ≠ 1), .unsupportedPlanes),
   (decide (i32le S 18 ≤ 0 ∨ i32le S 22 = 0), .invalidDimensions),
   (decide (L < u32le S 10 + rowStrideOf (i32le S 18).toNat (u16le S 28 / 8) * (i32le S 22).natAbs), .truncated)]

/-- Which errors a command can end with (the column "raised by" of R241). -/
def raisedBy : Command → Error → Bool
  | .parse, e | .decode, e =>
    e != .invalidImage && e != .capacity && e != .illegalCommand
  | .encode, e => e == .invalidImage || e == .capacity
  | .line, e => e == .capacity

/-- Byte `k` of file row `r` of the file in SRC, for a geometry record (R98). -/
def State.fileByte (s : State) (g : Geometry) (r k : Nat) : Byte := s.byteAt .src (g.off + r * g.stride + k)

/-- The two states show the same Image (R30): the same width, height, format and pixel bytes. -/
def SameImage (s u : State) : Prop :=
  s.imgWidth = u.imgWidth ∧ s.imgHeight = u.imgHeight ∧ s.imgFmt = u.imgFmt ∧
    ∀ i : Nat, (i : Int) < s.imageBytes → s.byteAt .pix i = u.byteAt .pix i

/-- `u` has in SRC the file that `t` has in DST (what COPYBACK does, R108). -/
def CopiedBack (t u : State) : Prop :=
  u.srcLen = t.dstLen ∧ ∀ i : Nat, i < t.dstLen.toNat → u.byteAt .src i = t.byteAt .dst i

/-- Whether the line visits the point (x, y) (R204). -/
def LineSetup.visits (l : LineSetup) (x y : Int) : Prop := ∃ p ∈ l.trace l.count l.start, p.x = x ∧ p.y = y

end Sys2Proof.Machine
end

