-- ==== Sys2Proof/Certificates/Slice0/Obligations.lean ====
section
/-! DEFINITION. The statements for the provers, from the numbered rules of spec/. A statement marked "model's choice"
rests on a convention of this model or on a passage the spec marks as derived or as general knowledge. -/

open Sys2Proof Sys2Proof.Machine

/-! ### The step, reset and the events of the outside -/

/-- A host operation that is the oldest pending event is decoded and run to completion in one step, and taken off the
inbox (R71, R220). The inbox is the model's choice (log entry 1). -/
def Obligations.StepRunsDecodedOperation : Prop :=
  ∀ (s : State) (t : HostOp) (rest : List HostEvent), s.inbox = .op t :: rest →
    step s = exec (decodeOp t) { s with inbox := rest }

/-- With nothing pending BRT is idle (R40, R270). A reset event gives every register its reset value, keeps the
constants CAP_*, and leaves every buffer byte with a free value of this reset (R270, R37, R47). The inbox and the
counter of resets are the model's choice (log entries 1, 3, 6). -/
def Obligations.IdleStepAndResetEvent : Prop :=
  (∀ s : State, s.inbox = [] → step s = .next s) ∧
  ∀ (s : State) (rest : List HostEvent), s.inbox = .reset :: rest →
    ∃ t : State, step s = .next t ∧ t.inbox = rest ∧
      (∀ r : RegName, r ≠ .capSrc → r ≠ .capPix → r ≠ .capDst → t.readReg r = 0#32) ∧
      t.capSrc = s.capSrc ∧ t.capPix = s.capPix ∧ t.capDst = s.capDst ∧
      ∀ (b : Buf) (i : Nat), t.byteAt b i = Config.resetByte (s.resets + 1) b i

/-- Every register has its reset value, CMD reading 0 and CAP_* their constants, and each buffer byte holds an arbitrary
value, the same at every read (R47). That the arbitrary bytes are the free value of their place, and the constants those of
Config, is the model's choice (log entries 3 and 4). -/
def Obligations.ResetState : Prop :=
  (∀ r : RegName, State.reset.readReg r =
    if r = .capSrc then Config.capSrc else if r = .capPix then Config.capPix
    else if r = .capDst then Config.capDst else 0#32) ∧
  ∀ (b : Buf) (i : Nat), State.reset.byteAt b i = Config.resetByte 0 b i

/-- What R47 infers of the reset state: whatever the buffers hold, PARSE and DECODE give Truncated, ENCODE gives
InvalidImage and LINE colours nothing. -/
def Obligations.FirstCommandsAfterReset : Prop :=
  exec .parse State.reset = .next { State.reset with status := 0x00000016#32 } ∧
  exec .decode State.reset = .next { State.reset with status := 0x00000016#32 } ∧
  exec .encode State.reset = .next { State.reset with status := 0x00000086#32 } ∧
  exec .line State.reset = .next { State.reset with status := 0x00000002#32 }

/-- The invariant holds at reset, whatever the capacities are (R7, R47). -/
def Obligations.InvariantAtReset : Prop := StateInv State.reset

/-- Every step keeps the invariant: the capacities' constraints (R7), a legal STATUS (R23), SRC_LEN ≤ SRC_CAP (R24),
the zero bits of IMG_FMT (R27), the ranges of the parse results (R31 to R35), ROW_STRIDE a multiple of 4 (R131),
DST_LEN ≤ DST_CAP (R185), and each buffer with nothing written outside it (R62, R163, R185, R206) and in canonical form,
which is the model's choice (log entry 3). -/
def Obligations.StepKeepsInvariant : Prop :=
  ∀ s t : State, StateInv s → step s = .next t → StateInv t

/-- R37: the capacity registers never change, not even at a reset event, read as the constants and ignore writes. -/
def Obligations.CapacitiesNeverChange : Prop :=
  (State.reset.capSrc = Config.capSrc ∧ State.reset.capPix = Config.capPix ∧ State.reset.capDst = Config.capDst) ∧
  (∀ s t : State, step s = .next t → t.capSrc = s.capSrc ∧ t.capPix = s.capPix ∧ t.capDst = s.capDst) ∧
  ∀ s : State,
    exec (.rreg 17#32) s = .next { s with rdata := s.capSrc } ∧
    exec (.rreg 18#32) s = .next { s with rdata := s.capPix } ∧
    exec (.rreg 19#32) s = .next { s with rdata := s.capDst } ∧
    ∀ a v : Word, 17 ≤ a.toNat → a.toNat ≤ 19 → exec (.wreg a v) s = .next s

/-! ### Encodings -/

/-- R92: `decode_cmd` is total; it gives each command for its word alone, and ILLEGAL for every other word. -/
def Obligations.CommandWordsDecode : Prop :=
  ∀ w : Word,
    (decodeCmd w = .ok .parse ↔ w = 0x00000001#32) ∧ (decodeCmd w = .ok .decode ↔ w = 0x00000002#32) ∧
    (decodeCmd w = .ok .encode ↔ w = 0x00000003#32) ∧ (decodeCmd w = .ok .line ↔ w = 0x00000004#32) ∧
    (decodeCmd w = .error .illegalCommand ↔
      w ≠ 0x00000001#32 ∧ w ≠ 0x00000002#32 ∧ w ≠ 0x00000003#32 ∧ w ≠ 0x00000004#32)

/-- Decoding the transaction of a well-formed instruction gives it back, with every operand at every value. -/
def Obligations.DecodeInvertsEncode : Prop := ∀ i : Instr, WellFormed i → decodeOp (encode i) = i

/-- Every transaction decodes to a well-formed instruction, and encoding that gives the transaction back but for the
bits R106 ignores: wdata on a read, wdata[31:8] on a buffer write. -/
def Obligations.EncodeInvertsDecode : Prop :=
  ∀ t : HostOp, WellFormed (decodeOp t) ∧
    encode (decodeOp t) =
      { t with wdata := if t.write = false then 0#32 else if t.space = 0#2 then t.wdata else t.wdata &&& 0xFF#32 }

/-- Every transaction decodes by its space and write, with every addr and wdata (R106), a write of a command word to CMD
to the command (R91), and so do a few words of the opcode table, whose layout as numbers is the model's choice (log entry
15). That a command word has no instruction but its command's is the model's choice too (log entry 14). -/
def Obligations.SampleWordsDecode : Prop :=
  (∀ a v : Word,
    decodeOp ⟨0#2, false, a, v⟩ = .rreg a ∧
    decodeOp ⟨0#2, true, a, v⟩ =
      (if a = 0#32 ∧ v = 0x00000001#32 then .parse else if a = 0#32 ∧ v = 0x00000002#32 then .decode
       else if a = 0#32 ∧ v = 0x00000003#32 then .encode else if a = 0#32 ∧ v = 0x00000004#32 then .line
       else .wreg a v) ∧
    decodeOp ⟨1#2, false, a, v⟩ = .rsrc a ∧ decodeOp ⟨1#2, true, a, v⟩ = .wsrc a (v.setWidth 8) ∧
    decodeOp ⟨2#2, false, a, v⟩ = .rpix a ∧ decodeOp ⟨2#2, true, a, v⟩ = .wpix a (v.setWidth 8) ∧
    decodeOp ⟨3#2, false, a, v⟩ = .rdst a ∧ decodeOp ⟨3#2, true, a, v⟩ = .wdst a (v.setWidth 8)) ∧
  decodeTableWord 32 0x00000001 = some .parse ∧ decodeTableWord 32 0x00000004 = some .line ∧
  decodeTableWord 32 0x00000012 = none ∧ decodeTableWord 8 0 = some (.rreg 0#32) ∧
  decodeTableWord 8 3 = some (.wsrc 0#32 0#8) ∧
  decodeOp ⟨0#2, true, 2#32, 0x00000066#32⟩ = .wreg 2#32 102#32 ∧
  decodeOp ⟨0#2, true, 0#32, 0x00000002#32⟩ = .decode ∧
  decodeOp ⟨2#2, true, 5#32, 0xABCDEF55#32⟩ = .wpix 5#32 0x55#8

/-- The step runs the instruction the decoder reads from a table row's word, with nothing else changed, once its
transaction is the oldest pending event (the model's choice, log entries 1 and 15). -/
def Obligations.FetchedTableWordRuns : Prop :=
  ∀ (s : State) (nbits w : Nat) (i : Instr), decodeTableWord nbits w = some i →
    step (s.withFetchWord nbits w) = exec i s

/-! ### Host operations -/

/-- R221, R38: what a read of each register number returns and what a write to it does, a write to CMD running the
command of its word; nothing else changes. -/
def Obligations.RegisterReadsAndWrites : Prop :=
  ∀ s : State,
    (∀ p ∈ [(0#32, 0#32), (1#32, s.status), (2#32, s.srcLen), (3#32, s.imgWidth), (4#32, s.imgHeight),
        (5#32, s.imgFmt), (6#32, s.lineX0), (7#32, s.lineY0), (8#32, s.lineX1), (9#32, s.lineY1),
        (10#32, s.rowStride), (11#32, s.pOffset), (12#32, s.pDibsize), (13#32, s.pWidth), (14#32, s.pHeight),
        (15#32, s.pBitcnt), (16#32, s.dstLen), (17#32, s.capSrc), (18#32, s.capPix), (19#32, s.capDst)],
      exec (.rreg p.1) s = .next { s with rdata := p.2 }) ∧
    (∀ a : Word, 20 ≤ a.toNat → exec (.rreg a) s = .next { s with rdata := 0#32 }) ∧
    ∀ v : Word,
      exec (.wreg 2#32 v) s = .next { s with srcLen := if v.toNat ≤ s.capSrc.toNat then v else s.capSrc } ∧
      exec (.wreg 3#32 v) s = .next { s with imgWidth := v } ∧
      exec (.wreg 4#32 v) s = .next { s with imgHeight := v } ∧
      exec (.wreg 5#32 v) s = .next { s with imgFmt := v &&& 3#32 } ∧
      exec (.wreg 6#32 v) s = .next { s with lineX0 := v } ∧
      exec (.wreg 7#32 v) s = .next { s with lineY0 := v } ∧
      exec (.wreg 8#32 v) s = .next { s with lineX1 := v } ∧
      exec (.wreg 9#32 v) s = .next { s with lineY1 := v } ∧
      (∀ a : Word, a = 1#32 ∨ 10 ≤ a.toNat → exec (.wreg a v) s = .next s) ∧
      (∀ c : Command, decodeCmd v = .ok c → exec (.wreg 0#32 v) s = exec (cmdInstr c) s) ∧
      ∀ e : Error, decodeCmd v = .error e → exec (.wreg 0#32 v) s = .next { s with status := 0x000000A6#32 }

/-- R249 with R22: a write of a command word to CMD runs exactly that command, and every other word completes with
IllegalCommand, STATUS = 0x000000A6, with nothing executed. -/
def Obligations.CmdWriteRunsCommand : Prop :=
  ∀ (s : State) (w : Word),
    (∀ c : Command, w = cmdWord c → exec (.wreg 0#32 w) s = exec (cmdInstr c) s) ∧
    ((∀ c : Command, w ≠ cmdWord c) → exec (.wreg 0#32 w) s = .next { s with status := 0x000000A6#32 })

/-- R223, R224, R227: a buffer read returns the byte zero-extended below the capacity and 0 from there on, whatever
SRC_LEN, DST_LEN and the Image are; a write to DST is ignored at every index. Nothing else changes. -/
def Obligations.BufferReadsAndIgnoredDstWrites : Prop :=
  ∀ (s : State) (i : Word),
    exec (.rsrc i) s = .next { s with
      rdata := if i.toNat < s.capSrc.toNat then (s.byteAt .src i.toNat).zeroExtend 32 else 0#32 } ∧
    exec (.rpix i) s = .next { s with
      rdata := if i.toNat < s.capPix.toNat then (s.byteAt .pix i.toNat).zeroExtend 32 else 0#32 } ∧
    exec (.rdst i) s = .next { s with
      rdata := if i.toNat < s.capDst.toNat then (s.byteAt .dst i.toNat).zeroExtend 32 else 0#32 } ∧
    ∀ b : Byte, exec (.wdst i b) s = .next s

/-- R222, R225: a write of SRC or PIX below the capacity changes that byte and no other state; at or beyond the
capacity it is ignored. SRC_LEN is not changed. -/
def Obligations.BufferWrites : Prop :=
  ∀ (s : State) (i : Word) (b : Byte),
    (∃ t : State, exec (.wsrc i b) s = .next t ∧ t = { s with src := t.src } ∧
      (i.toNat < s.capSrc.toNat → ∀ j : Nat, t.byteAt .src j = if j = i.toNat then b else s.byteAt .src j) ∧
      (s.capSrc.toNat ≤ i.toNat → t = s)) ∧
    (∃ t : State, exec (.wpix i b) s = .next t ∧ t = { s with pix := t.pix } ∧
      (i.toNat < s.capPix.toNat → ∀ j : Nat, t.byteAt .pix j = if j = i.toNat then b else s.byteAt .pix j) ∧
      (s.capPix.toNat ≤ i.toNat → t = s))

/-- Host writes of SRC and PIX: two writes to different bytes, of one buffer or of two, give the same state in both
orders, and the later of two writes to one byte is what is left (R72). That equal contents are equal data is the model's
choice (log entry 3). -/
def Obligations.HostWritesCommute : Prop :=
  ∀ (s : State) (i j : Word) (b c : Byte), s.src.wf → s.pix.wf →
    let commute : Instr → Instr → Prop := fun p q => ∃ t t' u : State,
      exec p s = .next t ∧ exec q t = .next u ∧ exec q s = .next t' ∧ exec p t' = .next u
    let laterStands : Instr → Instr → Prop := fun p q => ∃ t : State, exec p s = .next t ∧ exec q t = exec q s
    (i ≠ j → commute (.wsrc i b) (.wsrc j c) ∧ commute (.wpix i b) (.wpix j c)) ∧
    commute (.wsrc i b) (.wpix j c) ∧
    laterStands (.wsrc i b) (.wsrc i c) ∧ laterStands (.wpix i b) (.wpix i c)

/-- No host operation and no command stops the machine: every instruction completes in every state. That there is no
stop at all is read from R220 and R276 (log entry 8). -/
def Obligations.EveryInstructionCompletes : Prop := ∀ (i : Instr) (s : State), ∃ t : State, exec i s = .next t

/-- STATUS is written by command completion alone: an instruction that changes it is a command or a write to CMD
(R23, R39). -/
def Obligations.StatusWrittenByCommandsOnly : Prop :=
  ∀ (i : Instr) (s t : State), exec i s = .next t → t.status ≠ s.status →
    (∃ c : Command, i = cmdInstr c) ∨ ∃ w : Word, i = .wreg 0#32 w

/-- Every completed command leaves BUSY 0, DONE 1 and ERR exactly when ERRCODE ≠ 0, and no instruction clears DONE once
it is set (R23). -/
def Obligations.DoneStaysSet : Prop :=
  (∀ (c : Command) (s t : State), exec (cmdInstr c) s = .next t →
    t.status.getLsbD 0 = false ∧ t.status.getLsbD 1 = true ∧
      (t.status.getLsbD 2 = true ↔ t.status.extractLsb 7 4 ≠ 0#4)) ∧
  ∀ (i : Instr) (s t : State), exec i s = .next t → s.status.getLsbD 1 = true → t.status.getLsbD 1 = true

/-- Who may write which buffer (R42 to R44): SRC the host's WSRC alone, PIX the host's WPIX, DECODE and LINE, DST ENCODE
alone (each command also through its write to CMD). -/
def Obligations.WhoWritesTheBuffers : Prop :=
  ∀ (i : Instr) (s t : State), exec i s = .next t →
    (t.src ≠ s.src → ∃ (k : Word) (b : Byte), i = .wsrc k b) ∧
    (t.pix ≠ s.pix → (∃ (k : Word) (b : Byte), i = .wpix k b) ∨ i = .decode ∨ i = .line ∨
      i = .wreg 0#32 0x00000002#32 ∨ i = .wreg 0#32 0x00000004#32) ∧
    (t.dst ≠ s.dst → i = .encode ∨ i = .wreg 0#32 0x00000003#32)

/-- Loading a file with LOADSRC (R108): the host's operations, served one a step, leave the bytes in SRC and their
number in SRC_LEN, and change nothing else. That the operations wait in the inbox and are served one a step is the model's
choice (log entry 1). -/
def Obligations.LoadSrcLoadsTheFile : Prop :=
  ∀ (s : State) (bytes : List Byte), s.inbox = [] → bytes.length ≤ s.capSrc.toNat →
    ∃ t : State, core.run (bytes.length + 1) (s.issue (loadSrc bytes)) = .next t ∧
      t = { s with src := t.src, srcLen := BitVec.ofNat 32 bytes.length } ∧
      ∀ i : Nat, t.byteAt .src i = (bytes[i]?).getD (s.byteAt .src i)

/-- COPYBACK (R108): the host's operations, served one a step, copy the encoded file to SRC and set SRC_LEN, and change
nothing else but what the last read returned. Each read of DST answers the byte that the operation after it writes. The
operations wait in the inbox, and rdata is a field of the state, by the model's choice (log entries 1 and 2). -/
def Obligations.CopyBackCopiesTheFile : Prop :=
  ∀ s : State, s.inbox = [] → s.dstLen.toNat ≤ s.capSrc.toNat → s.dstLen.toNat ≤ s.capDst.toNat →
    (∃ t : State, core.run (2 * s.dstLen.toNat + 1) (s.issue (copyBack s)) = .next t ∧ CopiedBack s t ∧
      t = { s with src := t.src, srcLen := s.dstLen, rdata := t.rdata } ∧
      ∀ i : Nat, s.dstLen.toNat ≤ i → t.byteAt .src i = s.byteAt .src i) ∧
    ∀ i : Nat, i < s.dstLen.toNat →
      ∃ u : State, core.run (2 * i + 1) (s.issue (copyBack s)) = .next u ∧
        u.rdata = (s.byteAt .dst i).zeroExtend 32 ∧
        u.inbox.head? = some (.op ⟨1#2, true, BitVec.ofNat 32 i, u.rdata⟩)

/-! ### Completion and errors -/

/-- R252 with R251 and R241: each command completes with STATUS 2, or with STATUS 6 + 16 × code for an error that this
command can raise and with no other state changed. -/
def Obligations.ErrorsChangeStatusOnly : Prop :=
  ∀ (c : Command) (s : State), ∃ t : State, exec (cmdInstr c) s = .next t ∧
    (t.status = 0x00000002#32 ∨
      ∃ e : Error, raisedBy c e = true ∧
        t = { s with status := BitVec.ofNat 32 (6 + 16 * (errorCode e).toNat) })

/-- What no command writes, and what each command leaves alone with or without an error (R45, R46). -/
def Obligations.CommandFrames : Prop :=
  ∀ (c : Command) (s t : State), exec (cmdInstr c) s = .next t →
    (t.src = s.src ∧ t.srcLen = s.srcLen ∧ t.lineX0 = s.lineX0 ∧ t.lineY0 = s.lineY0 ∧ t.lineX1 = s.lineX1 ∧
      t.lineY1 = s.lineY1 ∧ t.capSrc = s.capSrc ∧ t.capPix = s.capPix ∧ t.capDst = s.capDst ∧
      t.resets = s.resets ∧ t.inbox = s.inbox ∧ t.rdata = s.rdata) ∧
    (c ≠ .decode → t.imgWidth = s.imgWidth ∧ t.imgHeight = s.imgHeight ∧ t.imgFmt = s.imgFmt) ∧
    (c ≠ .parse → c ≠ .decode → t.pOffset = s.pOffset ∧ t.pDibsize = s.pDibsize ∧ t.pWidth = s.pWidth ∧
      t.pHeight = s.pHeight ∧ t.pBitcnt = s.pBitcnt) ∧
    (c ≠ .encode → t.dst = s.dst ∧ t.dstLen = s.dstLen) ∧
    (c = .parse ∨ c = .encode → t.pix = s.pix) ∧
    (c = .line → t.rowStride = s.rowStride)

/-! ### Row stride, fields and `parse` -/

/-- The consequences R131 draws from its definition: the stride is the least multiple of 4 that holds the row. -/
def Obligations.RowStrideIsLeastMultiple : Prop :=
  ∀ w bpp : Nat, 1 ≤ w → bpp = 3 ∨ bpp = 4 →
    rowStrideOf w bpp % 4 = 0 ∧ w * bpp ≤ rowStrideOf w bpp ∧
    (∀ m : Nat, m % 4 = 0 → w * bpp ≤ m → rowStrideOf w bpp ≤ m) ∧ 4 ≤ rowStrideOf w bpp ∧
    rowStrideOf w bpp - w * bpp = (4 - w * bpp % 4) % 4 ∧
    (bpp = 4 → rowStrideOf w bpp = w * bpp) ∧ (bpp = 3 → rowStrideOf w bpp - w * bpp = w % 4)

/-- R161: `canonical_row` is the row itself for top_down and h − 1 − r for bottom_up, stays in 0 .. h, is its own
inverse, and is 0 for a one-row image. -/
def Obligations.CanonicalRowIsItsOwnInverse : Prop :=
  ∀ (r h : Nat) (td : Bool), r < h →
    canonicalRow r h true = r ∧ canonicalRow r h false = h - 1 - r ∧ canonicalRow r h td < h ∧
    canonicalRow (canonicalRow r h td) h td = r ∧ (h = 1 → canonicalRow r h td = 0) ∧
    ∀ q : Nat, q < h → canonicalRow q h td = canonicalRow r h td → q = r

/-- Field assembly and emission (R100 to R103), little-endian (R63): byte k of what `le16` and `le32` emit is
(v div 2^(8k)) mod 2^8, a negative v first replaced by v + 2^32, and byte k of what is assembled is the byte at the k-th
index; so assembling what is emitted gives the value back, for every value that fits the field, and assembled values have
the ranges the rules give. Two's complement is the model's choice (log entry 11). -/
def Obligations.FieldsRoundTrip : Prop :=
  (∀ v : Nat, v < 2 ^ 16 → u16le (fun k => (le16 v).getD k 0#8) 0 = v) ∧
  (∀ v : Nat, v < 2 ^ 32 → u32le (fun k => (le32 v).getD k 0#8) 0 = v) ∧
  (∀ v : Int, -2 ^ 31 ≤ v → v < 2 ^ 31 → i32le (fun k => (le32 v).getD k 0#8) 0 = v) ∧
  (∀ v : Nat, v < 2 ^ 16 → (le16 v).length = 2 ∧
    ∀ k : Nat, k < 2 → ((le16 v).getD k 0#8).toNat = v / 2 ^ (8 * k) % 2 ^ 8) ∧
  (∀ v : Int, -2 ^ 31 ≤ v → v < 2 ^ 32 → (le32 v).length = 4 ∧
    ∀ k : Nat, k < 4 →
      (((le32 v).getD k 0#8).toNat : Int) = (if v < 0 then v + 2 ^ 32 else v) / 2 ^ (8 * k) % 2 ^ 8) ∧
  ∀ (B : Nat → Byte) (a : Nat),
    (∀ k : Nat, k < 2 → u16le B a / 2 ^ (8 * k) % 2 ^ 8 = (B (a + k)).toNat) ∧
    (∀ k : Nat, k < 4 → u32le B a / 2 ^ (8 * k) % 2 ^ 8 = (B (a + k)).toNat) ∧
    (i32le B a = if u32le B a < 2 ^ 31 then (u32le B a : Int) else (u32le B a : Int) - 2 ^ 32) ∧
    u16le B a < 2 ^ 16 ∧ u32le B a < 2 ^ 32 ∧ -2 ^ 31 ≤ i32le B a ∧ i32le B a < 2 ^ 31

/-- R141: `parse` raises the error of the first check of R254's table that fails, and otherwise returns the record of
the fields. -/
def Obligations.ParseChecksInOrder : Prop :=
  ∀ (S : Nat → Byte) (L : Nat),
    parse S L =
      match (parseChecks S L).find? (fun c => c.1) with
      | some c => .error c.2
      | none => .ok
        { off := u32le S 10, dib := u32le S 14, width := i32le S 18, height := i32le S 22, bitcnt := u16le S 28,
          bpp := if u16le S 28 = 24 then 3 else 4, td := decide (i32le S 22 < 0), absH := (i32le S 22).natAbs,
          stride := rowStrideOf (i32le S 18).toNat (if u16le S 28 = 24 then 3 else 4) }

/-- R243 to R248 with the order of R254: exactly when `parse` raises each of its error kinds, and their codes. -/
def Obligations.WhenParseRaisesEachError : Prop :=
  ∀ (S : Nat → Byte) (L : Nat),
    (errorCode .truncated = 1#4 ∧ errorCode .notABmp = 2#4 ∧ errorCode .unsupportedHeader = 3#4 ∧
      errorCode .unsupportedCompression = 4#4 ∧ errorCode .unsupportedBitDepth = 5#4 ∧
      errorCode .unsupportedPlanes = 6#4 ∧ errorCode .invalidDimensions = 7#4) ∧
    let magic : Prop := S 0 = 0x42#8 ∧ S 1 = 0x4D#8
    let dib := u32le S 14
    let head : Prop := magic ∧ 40 ≤ dib ∧ 14 + dib ≤ L
    let depth : Prop := u16le S 28 = 24 ∨ u16le S 28 = 32
    let format : Prop := head ∧ u32le S 30 = 0 ∧ depth ∧ u16le S 26 = 1
    let size : Prop := 0 < i32le S 18 ∧ i32le S 22 ≠ 0
    (parse S L = .error .notABmp ↔ 14 ≤ L ∧ ¬ magic) ∧
    (parse S L = .error .unsupportedHeader ↔ 18 ≤ L ∧ magic ∧ 14 + dib ≤ L ∧ dib < 40) ∧
    (parse S L = .error .unsupportedCompression ↔ head ∧ u32le S 30 ≠ 0) ∧
    (parse S L = .error .unsupportedBitDepth ↔ head ∧ u32le S 30 = 0 ∧ ¬ depth) ∧
    (parse S L = .error .unsupportedPlanes ↔ head ∧ u32le S 30 = 0 ∧ depth ∧ u16le S 26 ≠ 1) ∧
    (parse S L = .error .invalidDimensions ↔ format ∧ ¬ size) ∧
    (parse S L = .error .truncated ↔
      L < 14 ∨ (magic ∧ (L < 18 ∨ L < 14 + dib)) ∨
        (format ∧ size ∧ L < u32le S 10
          + (i32le S 18).toNat * (u16le S 28 / 8) * (i32le S 22).natAbs
          + (4 - (i32le S 18).toNat * (u16le S 28 / 8) % 4) % 4 * (i32le S 22).natAbs))

/-- `parse` depends on the bytes at file offsets 0, 1 and 10 to 33 that lie below L, and on no other byte (R143). -/
def Obligations.ParseReadsOnlyHeaderBytes : Prop :=
  ∀ (S S' : Nat → Byte) (L : Nat),
    (∀ i : Nat, i < L → (i < 2 ∨ (10 ≤ i ∧ i < 34)) → S i = S' i) → parse S L = parse S' L

/-- The facts about a returned record (R146): every component is in the range its register needs, and the rows lie
inside the file. -/
def Obligations.GeometryFacts : Prop :=
  ∀ (S : Nat → Byte) (L : Nat) (g : Geometry), L < 2 ^ 32 → parse S L = .ok g →
    g.off + 4 ≤ L ∧ 40 ≤ g.dib ∧ 14 + g.dib ≤ L ∧ 1 ≤ g.width ∧ g.width ≤ 2 ^ 31 - 1 ∧ g.height ≠ 0 ∧
    (g.bitcnt = 24 ∧ g.bpp = 3 ∨ g.bitcnt = 32 ∧ g.bpp = 4) ∧ (g.td = true ↔ g.height < 0) ∧
    1 ≤ g.absH ∧ (g.absH : Int) = |g.height| ∧ g.absH ≤ (2 ^ 32 - 1) / 4 ∧
    g.stride = rowStrideOf g.width.toNat g.bpp ∧ g.off + g.stride * g.absH ≤ L ∧
    g.width * g.absH * g.bpp ≤ (L : Int) - g.off

/-- R140: a successful PARSE commits the record, each register reading exactly as its component (R147), and changes
nothing else; a failing one changes STATUS only. -/
def Obligations.ParseCommand : Prop :=
  ∀ s : State,
    (∀ g : Geometry, parse (s.byteAt .src) s.srcLen.toNat = .ok g →
      ∃ t : State, exec .parse s = .next t ∧
        t = { s with
          pOffset := t.pOffset, pDibsize := t.pDibsize, pWidth := t.pWidth, pHeight := t.pHeight,
          pBitcnt := t.pBitcnt, rowStride := t.rowStride, status := 0x00000002#32 } ∧
        t.pOffset.toNat = g.off ∧ t.pDibsize.toNat = g.dib ∧ t.pWidth.toInt = g.width ∧
        t.pHeight.toInt = g.height ∧ t.pBitcnt.toNat = g.bitcnt ∧ t.rowStride.toNat = g.stride) ∧
    ∀ e : Error, parse (s.byteAt .src) s.srcLen.toNat = .error e →
      exec .parse s = .next { s with status := BitVec.ofNat 32 (6 + 16 * (errorCode e).toNat) }

/-! ### DECODE -/

/-- R160, R162: a successful DECODE commits the record and the Image registers, copies the rows to their canonical
places, leaves every PIX byte from w × h × bpp on and all other state unchanged, and makes ImageValid hold; a failing
one changes STATUS only. -/
def Obligations.DecodeCommand : Prop :=
  ∀ s : State,
    (∀ g : Geometry, parse (s.byteAt .src) s.srcLen.toNat = .ok g →
      ∃ t : State, exec .decode s = .next t ∧
        t = { s with
          pOffset := t.pOffset, pDibsize := t.pDibsize, pWidth := t.pWidth, pHeight := t.pHeight,
          pBitcnt := t.pBitcnt, rowStride := t.rowStride, imgWidth := t.imgWidth, imgHeight := t.imgHeight,
          imgFmt := t.imgFmt, pix := t.pix, status := 0x00000002#32 } ∧
        t.pOffset.toNat = g.off ∧ t.pDibsize.toNat = g.dib ∧ t.pWidth.toInt = g.width ∧
        t.pHeight.toInt = g.height ∧ t.pBitcnt.toNat = g.bitcnt ∧ t.rowStride.toNat = g.stride ∧
        t.imgW = g.width ∧ t.imgH = (g.absH : Int) ∧
        t.imgFmt.toNat = (g.bpp - 3) * 2 + (if g.td then 1 else 0) ∧
        (∀ y j : Nat, y < g.absH → j < g.width.toNat * g.bpp →
          t.byteAt .pix (y * (g.width.toNat * g.bpp) + j)
            = s.byteAt .src (g.off + (if g.td then y else g.absH - 1 - y) * g.stride + j)) ∧
        (∀ i : Nat, g.width.toNat * g.absH * g.bpp ≤ i → t.byteAt .pix i = s.byteAt .pix i) ∧
        (StateInv s → ImageValid t)) ∧
    ∀ e : Error, parse (s.byteAt .src) s.srcLen.toNat = .error e →
      exec .decode s = .next { s with status := BitVec.ofNat 32 (6 + 16 * (errorCode e).toNat) }

/-- R166: a bottom-up file and a top-down file with the same pixels decode to the same pixels, width and height, and
to formats that differ in TOPDOWN only. -/
def Obligations.RowOrderFlip : Prop :=
  ∀ (s u : State) (g k : Geometry),
    parse (s.byteAt .src) s.srcLen.toNat = .ok g → parse (u.byteAt .src) u.srcLen.toNat = .ok k →
    g.width = k.width → g.bitcnt = k.bitcnt → g.absH = k.absH → 0 < g.height → k.height < 0 →
    (∀ r j : Nat, r < g.absH → j < g.rowBytes → s.fileByte g r j = u.fileByte k (g.absH - 1 - r) j) →
    ∃ t v : State, exec .decode s = .next t ∧ exec .decode u = .next v ∧
      t.imgWidth = v.imgWidth ∧ t.imgHeight = v.imgHeight ∧
      fmtTopDown t.imgFmt = false ∧ v.imgFmt = t.imgFmt ||| 1#32 ∧
      ∀ i : Nat, (i : Int) < t.imageBytes → t.byteAt .pix i = v.byteAt .pix i

/-- Padding, gap and trailing bytes never reach the Image: two files with the same geometry and the same pixel bytes
decode to the same Image, whatever their other bytes are (R98, R99, R167). -/
def Obligations.OnlyPixelBytesReachTheImage : Prop :=
  ∀ (s u : State) (g k : Geometry),
    parse (s.byteAt .src) s.srcLen.toNat = .ok g → parse (u.byteAt .src) u.srcLen.toNat = .ok k →
    g.width = k.width → g.height = k.height → g.bitcnt = k.bitcnt →
    (∀ r j : Nat, r < g.absH → j < g.rowBytes → s.fileByte g r j = u.fileByte k r j) →
    ∃ t v : State, exec .decode s = .next t ∧ exec .decode u = .next v ∧ SameImage t v

/-- ImageValid does not hold at reset, and PARSE, ENCODE, LINE and every failing command keep it (R48). -/
def Obligations.ImageValidKept : Prop :=
  ¬ ImageValid State.reset ∧
  ∀ (c : Command) (s t : State), StateInv s → ImageValid s → exec (cmdInstr c) s = .next t → ImageValid t

/-! ### ENCODE -/

/-- R181: ENCODE answers InvalidImage when the width or height is ≤ 0, whatever the sizes, and else Capacity when the
pixels do not fit PIX or the file does not fit DST, with nothing but STATUS changed; else it raises nothing. All
products are exact. -/
def Obligations.EncodeChecks : Prop :=
  ∀ s : State,
    (s.imgWidth.toInt ≤ 0 ∨ s.imgHeight.toInt ≤ 0 → exec .encode s = .next { s with status := 0x00000086#32 }) ∧
    (0 < s.imgWidth.toInt → 0 < s.imgHeight.toInt →
      ((s.capPix.toNat : Int) < s.imgWidth.toInt * s.imgHeight.toInt * (if s.imgFmt.getLsbD 1 then 4 else 3) ∨
        s.capDst.toNat < 54 + rowStrideOf s.imgWidth.toInt.toNat (if s.imgFmt.getLsbD 1 then 4 else 3)
          * s.imgHeight.toInt.toNat) →
      exec .encode s = .next { s with status := 0x00000096#32 }) ∧
    (0 < s.imgWidth.toInt → 0 < s.imgHeight.toInt →
      s.imgWidth.toInt * s.imgHeight.toInt * (if s.imgFmt.getLsbD 1 then 4 else 3) ≤ (s.capPix.toNat : Int) →
      54 + rowStrideOf s.imgWidth.toInt.toNat (if s.imgFmt.getLsbD 1 then 4 else 3) * s.imgHeight.toInt.toNat
        ≤ s.capDst.toNat →
      ∃ t : State, exec .encode s = .next t ∧ t.status = 0x00000002#32)

/-- R180, R182, R184: when its checks pass, ENCODE writes the 54 header bytes, the rows at their file places with zero
padding, DST_LEN and ROW_STRIDE, and nothing else. Bytes 34 to 53 have the standard layout that the spec supplies from
general knowledge (log entry 10), and a signed field is two's complement (log entry 11). -/
def Obligations.EncodeWritesTheFile : Prop :=
  ∀ (s : State) (w h bpp stride : Nat) (td : Bool),
    s.imgWidth.toInt = (w : Int) → s.imgHeight.toInt = (h : Int) → 0 < w → 0 < h →
    bpp = (if s.imgFmt.getLsbD 1 then 4 else 3) → td = s.imgFmt.getLsbD 0 → stride = rowStrideOf w bpp →
    w * h * bpp ≤ s.capPix.toNat → 54 + stride * h ≤ s.capDst.toNat →
    ∃ t : State, exec .encode s = .next t ∧
      t = { s with dst := t.dst, dstLen := t.dstLen, rowStride := t.rowStride, status := 0x00000002#32 } ∧
      t.dstLen.toNat = 54 + stride * h ∧ t.rowStride.toNat = stride ∧
      t.byteAt .dst 0 = 0x42#8 ∧ t.byteAt .dst 1 = 0x4D#8 ∧
      u32le (t.byteAt .dst) 2 = 54 + stride * h ∧
      (∀ k : Nat, 6 ≤ k → k < 10 → t.byteAt .dst k = 0#8) ∧
      u32le (t.byteAt .dst) 10 = 54 ∧ u32le (t.byteAt .dst) 14 = 40 ∧
      i32le (t.byteAt .dst) 18 = (w : Int) ∧
      i32le (t.byteAt .dst) 22 = (if td then -(h : Int) else (h : Int)) ∧
      u16le (t.byteAt .dst) 26 = 1 ∧ u16le (t.byteAt .dst) 28 = bpp * 8 ∧
      u32le (t.byteAt .dst) 30 = 0 ∧ u32le (t.byteAt .dst) 34 = stride * h ∧
      (∀ k : Nat, 38 ≤ k → k < 54 → t.byteAt .dst k = 0#8) ∧
      (∀ r k : Nat, r < h → k < w * bpp →
        t.byteAt .dst (54 + r * stride + k)
          = s.byteAt .pix ((if td then r else h - 1 - r) * (w * bpp) + k)) ∧
      (∀ r k : Nat, r < h → w * bpp ≤ k → k < stride → t.byteAt .dst (54 + r * stride + k) = 0#8) ∧
      ∀ i : Nat, 54 + stride * h ≤ i → t.byteAt .dst i = s.byteAt .dst i

/-- R187: when ENCODE succeeds and its file is put into SRC, DECODE succeeds and gives the same Image. -/
def Obligations.DecodeInvertsEncodeOfAnImage : Prop :=
  ∀ s t u : State, StateInv s → exec .encode s = .next t → t.status = 0x00000002#32 →
    CopiedBack t u →
    ∃ v : State, exec .decode u = .next v ∧ v.status = 0x00000002#32 ∧ SameImage s v

/-- Decoding the encoder's output and encoding it again gives the same bytes (R188, its first part). -/
def Obligations.EncodeIsIdempotent : Prop :=
  ∀ s t u v x : State, StateInv s → exec .encode s = .next t → t.status = 0x00000002#32 →
    CopiedBack t u → u.capPix = s.capPix → u.capDst = s.capDst →
    exec .decode u = .next v → exec .encode v = .next x →
    x.status = 0x00000002#32 ∧ x.dstLen = t.dstLen ∧
      ∀ i : Nat, i < t.dstLen.toNat → x.byteAt .dst i = t.byteAt .dst i

/-- When ENCODE after DECODE reproduces the file byte for byte: exactly when its header is 40 bytes, its pixels start
at 54, its two size fields are right, the ignored fields and the padding are zero, and nothing trails (R188, its
consequence). What ENCODE puts into bytes 34 to 53 rests on log entry 10. -/
def Obligations.WhenEncodeReproducesTheFile : Prop :=
  ∀ (s t v : State) (g : Geometry), StateInv s → parse (s.byteAt .src) s.srcLen.toNat = .ok g →
    54 + g.stride * g.absH ≤ s.capDst.toNat →
    exec .decode s = .next t → exec .encode t = .next v →
    ((v.dstLen = s.srcLen ∧ ∀ i : Nat, i < s.srcLen.toNat → v.byteAt .dst i = s.byteAt .src i) ↔
      (g.dib = 40 ∧ g.off = 54 ∧ s.srcLen.toNat = 54 + g.stride * g.absH ∧
        u32le (s.byteAt .src) 2 = s.srcLen.toNat ∧ u32le (s.byteAt .src) 34 = g.stride * g.absH ∧
        (∀ k : Nat, 6 ≤ k → k < 10 → s.byteAt .src k = 0#8) ∧
        (∀ k : Nat, 38 ≤ k → k < 54 → s.byteAt .src k = 0#8) ∧
        ∀ r k : Nat, r < g.absH → g.rowBytes ≤ k → k < g.stride → s.fileByte g r k = 0#8))

/-! ### LINE -/

/-- R210 with R200: LINE raises Capacity, changing STATUS only, exactly when the window is not empty and the Image does
not fit PIX; otherwise it completes with STATUS 2 and changes nothing but STATUS and PIX. -/
def Obligations.LineCapacityCheck : Prop :=
  ∀ s : State,
    (0 < s.imgWidth.toInt → 0 < s.imgHeight.toInt →
      (s.capPix.toNat : Int) < s.imgWidth.toInt * s.imgHeight.toInt * (if s.imgFmt.getLsbD 1 then 4 else 3) →
      exec .line s = .next { s with status := 0x00000096#32 }) ∧
    (¬ (0 < s.imgWidth.toInt ∧ 0 < s.imgHeight.toInt ∧
        (s.capPix.toNat : Int) < s.imgWidth.toInt * s.imgHeight.toInt * (if s.imgFmt.getLsbD 1 then 4 else 3)) →
      ∃ t : State, exec .line s = .next t ∧ t = { s with pix := t.pix, status := 0x00000002#32 })

/-- With a width or a height ≤ 0 the window is empty: LINE completes and changes STATUS only, whatever the line
(R207). -/
def Obligations.LineOnEmptyWindow : Prop :=
  ∀ s : State, s.imgWidth.toInt ≤ 0 ∨ s.imgHeight.toInt ≤ 0 →
    exec .line s = .next { s with status := 0x00000002#32 }

/-- LINE colours exactly the visited points in the window opaque black and changes no other byte, none at all where the
window is empty (R205, R207, R45). Which
points are visited rests on the update the spec supplies from general knowledge (log entry 7). -/
def Obligations.LineColoursVisitedPoints : Prop :=
  ∀ s : State, ¬ s.lineTooBig →
    ∃ t : State, exec .line s = .next t ∧ t = { s with pix := t.pix, status := 0x00000002#32 } ∧
      (∀ x y c : Nat, (x : Int) < s.imgW → (y : Int) < s.imgH → c < s.bpp →
        (s.lineSetup.visits x y →
          t.byteAt .pix (((y * s.imgW.toNat) + x) * s.bpp + c) = if c = 3 then 0xFF#8 else 0x00#8) ∧
        (¬ s.lineSetup.visits x y →
          t.byteAt .pix (((y * s.imgW.toNat) + x) * s.bpp + c)
            = s.byteAt .pix (((y * s.imgW.toNat) + x) * s.bpp + c))) ∧
      (s.imgW ≤ 0 ∨ s.imgH ≤ 0 → ∀ i : Nat, t.byteAt .pix i = s.byteAt .pix i) ∧
      ∀ i : Nat, s.imageBytes ≤ (i : Int) → t.byteAt .pix i = s.byteAt .pix i

/-- The line loop terminates: run for max(dx, −dy) + 1 rounds it visits that many points, the first (x0, y0), the last
(x1, y1), where it exits (R209; it rests on log entry 7's update). -/
def Obligations.LineLoopEndsAtTheEndPoint : Prop :=
  ∀ (w h : Int) (bpp : Nat) (x0 y0 x1 y1 : Int),
    let l := lineSetup w h bpp x0 y0 x1 y1
    (l.trace l.count l.start).length = l.count ∧
    (l.count : Int) = max |x1 - x0| |y1 - y0| + 1 ∧
    (l.trace l.count l.start).head? = some ⟨x0, y0, |x1 - x0| - |y1 - y0|⟩ ∧
    (∃ p ∈ (l.trace l.count l.start).getLast?, p.x = x1 ∧ p.y = y1) ∧
    ∀ n : Nat, l.count ≤ n → l.trace n l.start = l.trace l.count l.start

/-- At every loop top 3 × dy ≤ 2 × err ≤ 3 × dx (R208; it rests on log entry 7's update). -/
def Obligations.LineErrorTermBounds : Prop :=
  ∀ (w h : Int) (bpp : Nat) (x0 y0 x1 y1 : Int), ∀ p ∈
      (lineSetup w h bpp x0 y0 x1 y1).trace (lineSetup w h bpp x0 y0 x1 y1).count (lineSetup w h bpp x0 y0 x1 y1).start,
    -(3 * |y1 - y0|) ≤ 2 * p.err ∧ 2 * p.err ≤ 3 * |x1 - x0|

/-- The visited points are distinct, consecutive ones are neighbours, and all lie between the end points (R209; it
rests on log entry 7's update). -/
def Obligations.LinePointsAreAConnectedPath : Prop :=
  ∀ (w h : Int) (bpp : Nat) (x0 y0 x1 y1 : Int),
    let l := lineSetup w h bpp x0 y0 x1 y1
    let tr := l.trace l.count l.start
    (tr.map (fun p => (p.x, p.y))).Nodup ∧
    (∀ (k : Nat) (p q : LinePoint), tr[k]? = some p → tr[k + 1]? = some q →
      |q.x - p.x| ≤ 1 ∧ |q.y - p.y| ≤ 1) ∧
    ∀ p ∈ tr, min x0 x1 ≤ p.x ∧ p.x ≤ max x0 x1 ∧ min y0 y1 ≤ p.y ∧ p.y ≤ max y0 y1

/-- The value of `sign` at 0 cannot be observed: whatever step is put for a coordinate that does not differ, the loop
visits the same points (R203; it rests on log entries 7 and 9). -/
def Obligations.SignAtZeroIsNeverUsed : Prop :=
  ∀ (w h : Int) (bpp : Nat) (x0 y0 x1 y1 a b : Int) (n : Nat),
    let l := lineSetup w h bpp x0 y0 x1 y1
    let m : LineSetup := { l with sx := if x1 = x0 then a else l.sx, sy := if y1 = y0 then b else l.sy }
    m.trace n m.start = l.trace n l.start

/-- The source's clipping case (R211) on a square image of n × n pixels: the line from (−5, −5) to (n + 5, n + 5)
completes without error and colours exactly the diagonal. It rests on log entry 7's update. -/
def Obligations.SquareClippingColoursTheDiagonal : Prop :=
  ∀ (s : State) (n : Nat), 0 < n → s.imgW = n → s.imgH = n → n * n * s.bpp ≤ s.capPix.toNat →
    s.lineX0.toInt = -5 → s.lineY0.toInt = -5 → s.lineX1.toInt = n + 5 → s.lineY1.toInt = n + 5 →
    ∃ t : State, exec .line s = .next t ∧ t = { s with pix := t.pix, status := 0x00000002#32 } ∧
      (∀ x y c : Nat, x < n → y < n → c < s.bpp →
        t.byteAt .pix ((y * n + x) * s.bpp + c)
          = if x = y then (if c = 3 then 0xFF#8 else 0x00#8) else s.byteAt .pix ((y * n + x) * s.bpp + c)) ∧
      ∀ i : Nat, n * n * s.bpp ≤ i → t.byteAt .pix i = s.byteAt .pix i

/-- LINE does not read TOPDOWN: with another IMG_FMT of the same BPP4 it does the same to PIX and STATUS (R200). -/
def Obligations.LineIgnoresRowOrigin : Prop :=
  ∀ (s t : State) (f : Word), f.getLsbD 1 = s.imgFmt.getLsbD 1 → exec .line s = .next t →
    exec .line { s with imgFmt := f } = .next { t with imgFmt := f }
end

