-- ==== Sys2Proof/Laws/Memory.lean ====
section
/-! SUPPORT. The laws of a buffer's written bytes: what a write does to every read, that every write keeps the canonical
form and the bounds, and that canonical memories with the same bytes are the same data. -/

namespace Sys2Proof.Machine

open Sys2Proof

theorem Memory.lookup_insert (l : List Host.Cell) (a : Nat) (v : Byte) (b : Nat) :
    Memory.lookup (Memory.insert l a v) b = if b = a then some v else Memory.lookup l b := by
  induction l with
  | nil => simp [Memory.insert, Memory.lookup, eq_comm]
  | cons c rest ih =>
    simp only [Memory.insert]
    split
    · simp [Memory.lookup, eq_comm (a := a)]
    · split
      · next h =>
        simp only [Memory.lookup, ← h, eq_comm (a := a)]
        split <;> rfl
      · next h =>
        simp only [Memory.lookup, ih]
        by_cases hb : c.1 = b
        · rw [if_pos hb, if_pos hb, if_neg (fun e => h (by omega))]
        · rw [if_neg hb, if_neg hb]

/-- A read after a write: the byte written at its place, the byte before everywhere else. -/
theorem Memory.get?_set (m : Memory) (a : Nat) (v : Byte) (b : Nat) :
    (m.set a v).get? b = if b = a then some v else m.get? b :=
  Memory.lookup_insert m.cells a v b

@[simp] theorem Memory.get?_set_self (m : Memory) (a : Nat) (v : Byte) : (m.set a v).get? a = some v := by
  rw [Memory.get?_set, if_pos rfl]

theorem Memory.get?_set_ne (m : Memory) {a b : Nat} (v : Byte) (h : b ≠ a) : (m.set a v).get? b = m.get? b := by
  rw [Memory.get?_set, if_neg h]

/-- A run of writes: the byte of the run at the places it covers, the byte before everywhere else. -/
theorem Memory.get?_setMany (m : Memory) (a : Nat) (bytes : List Byte) (b : Nat) :
    (m.setMany a bytes).get? b = if a ≤ b ∧ b < a + bytes.length then bytes[b - a]? else m.get? b := by
  induction bytes generalizing m a with
  | nil => simp [Memory.setMany]
  | cons v rest ih =>
    rw [Memory.setMany, ih, Memory.get?_set]
    rcases Nat.lt_trichotomy b a with h | h | h
    · rw [if_neg (by omega), if_neg (by omega), if_neg (by simp; omega)]
    · subst h
      rw [if_neg (by omega), if_pos rfl, if_pos (by simp)]
      simp
    · rw [show b - a = (b - (a + 1)) + 1 by omega, List.getElem?_cons_succ]
      by_cases hb : b < a + 1 + rest.length
      · rw [if_pos ⟨by omega, hb⟩, if_pos (by simp; omega)]
      · rw [if_neg (by omega), if_neg (by omega), if_neg (by simp; omega)]

/-- The head of rising cells lies below every other. -/
theorem Memory.rising_cons {c : Host.Cell} {l : List Host.Cell} :
    Memory.rising (c :: l) = true ↔ (∀ d ∈ l, c.1 < d.1) ∧ Memory.rising l = true := by
  induction l generalizing c with
  | nil => simp [Memory.rising]
  | cons d rest ih =>
    simp only [Memory.rising, Bool.and_eq_true, decide_eq_true_eq, List.mem_cons, forall_eq_or_imp]
    constructor
    · rintro ⟨h, hr⟩
      exact ⟨⟨h, fun e he => Nat.lt_trans h ((ih.mp hr).1 e he)⟩, hr⟩
    · rintro ⟨⟨h, -⟩, hr⟩
      exact ⟨h, hr⟩

theorem Memory.mem_insert {l : List Host.Cell} {a : Nat} {v : Byte} {c : Host.Cell}
    (h : c ∈ Memory.insert l a v) : c = (a, v) ∨ c ∈ l := by
  induction l with
  | nil => simpa [Memory.insert] using h
  | cons d rest ih =>
    simp only [Memory.insert] at h
    split at h
    · simpa using h
    · split at h
      · rcases List.mem_cons.mp h with h | h
        · exact .inl h
        · exact .inr (List.mem_cons_of_mem _ h)
      · rcases List.mem_cons.mp h with h | h
        · exact .inr (h ▸ List.mem_cons_self)
        · exact (ih h).imp_right (List.mem_cons_of_mem _)

theorem Memory.rising_insert {l : List Host.Cell} (a : Nat) (v : Byte) (h : Memory.rising l = true) :
    Memory.rising (Memory.insert l a v) = true := by
  induction l with
  | nil => rfl
  | cons c rest ih =>
    obtain ⟨hc, hr⟩ := Memory.rising_cons.mp h
    simp only [Memory.insert]
    split
    · next hac =>
      refine Memory.rising_cons.mpr ⟨fun d hd => ?_, h⟩
      rcases List.mem_cons.mp hd with rfl | hd
      · exact hac
      · exact Nat.lt_trans hac (hc d hd)
    · split
      · next heq => exact Memory.rising_cons.mpr ⟨fun d hd => by simpa [heq] using hc d hd, hr⟩
      · next hlt hne =>
        refine Memory.rising_cons.mpr ⟨fun d hd => ?_, ih hr⟩
        rcases Memory.mem_insert hd with rfl | hd
        · simp only; omega
        · exact hc d hd

/-- Writing a byte keeps the canonical form. -/
theorem Memory.set_wf {m : Memory} (a : Nat) (v : Byte) (h : m.wf) : (m.set a v).wf :=
  Memory.rising_insert a v h

/-- Writing a run of bytes keeps the canonical form. -/
theorem Memory.setMany_wf {m : Memory} (a : Nat) (bytes : List Byte) (h : m.wf) : (m.setMany a bytes).wf := by
  induction bytes generalizing m a with
  | nil => exact h
  | cons v rest ih => exact ih (a + 1) (Memory.set_wf a v h)

theorem Memory.empty_wf : Memory.empty.wf := by decide

/-- A write inside a bound keeps every written byte inside it. -/
theorem Memory.set_bound {m : Memory} {a n : Nat} (v : Byte) (ha : a < n) (h : ∀ c ∈ m.cells, c.1 < n) :
    ∀ c ∈ (m.set a v).cells, c.1 < n := by
  intro c hc
  rcases Memory.mem_insert hc with rfl | hc
  · exact ha
  · exact h c hc

/-- A run of writes inside a bound keeps every written byte inside it. -/
theorem Memory.setMany_bound {m : Memory} {a n : Nat} (bytes : List Byte) (ha : a + bytes.length ≤ n)
    (h : ∀ c ∈ m.cells, c.1 < n) : ∀ c ∈ (m.setMany a bytes).cells, c.1 < n := by
  induction bytes generalizing m a with
  | nil => exact h
  | cons v rest ih =>
    rw [List.length_cons] at ha
    exact ih (by omega) (Memory.set_bound v (by omega) h)

theorem Memory.lookup_lt {l : List Host.Cell} {a : Nat} (h : ∀ d ∈ l, a < d.1) : Memory.lookup l a = none := by
  induction l with
  | nil => rfl
  | cons c rest ih =>
    rw [Memory.lookup, if_neg (Nat.ne_of_gt (h c List.mem_cons_self))]
    exact ih fun d hd => h d (List.mem_cons_of_mem _ hd)

theorem Memory.rising_ext {l k : List Host.Cell} (hl : Memory.rising l = true) (hk : Memory.rising k = true)
    (h : ∀ a, Memory.lookup l a = Memory.lookup k a) : l = k := by
  induction l generalizing k with
  | nil =>
    cases k with
    | nil => rfl
    | cons d k => have := h d.1; simp [Memory.lookup] at this
  | cons c l ih =>
    cases k with
    | nil => have := h c.1; simp [Memory.lookup] at this
    | cons d k =>
      obtain ⟨hc, hl'⟩ := Memory.rising_cons.mp hl
      obtain ⟨hd, hk'⟩ := Memory.rising_cons.mp hk
      have h1 : c.1 = d.1 := by
        rcases Nat.lt_trichotomy c.1 d.1 with hlt | heq | hgt
        · have := h c.1
          rw [Memory.lookup, if_pos rfl, Memory.lookup, if_neg (by omega),
            Memory.lookup_lt fun e he => Nat.lt_trans hlt (hd e he)] at this
          exact absurd this (by simp)
        · exact heq
        · have := h d.1
          rw [Memory.lookup, if_neg (by omega), Memory.lookup_lt fun e he => Nat.lt_trans hgt (hc e he),
            Memory.lookup, if_pos rfl] at this
          exact absurd this (by simp)
      have h2 : c = d := by
        have := h c.1
        rw [Memory.lookup, if_pos rfl, Memory.lookup, if_pos h1.symm] at this
        exact Prod.ext h1 (Option.some.inj this)
      subst h2
      congr 1
      refine ih hl' hk' fun a => ?_
      rcases Nat.lt_or_ge c.1 a with ha | ha
      · have := h a
        rwa [Memory.lookup, if_neg (by omega), Memory.lookup, if_neg (by omega)] at this
      · rw [Memory.lookup_lt fun e he => Nat.lt_of_le_of_lt ha (hc e he),
          Memory.lookup_lt fun e he => Nat.lt_of_le_of_lt ha (hd e he)]

/-- Two canonical memories with the same written bytes are the same data. -/
theorem Memory.wf_ext {m n : Memory} (hm : m.wf) (hn : n.wf) (h : ∀ a, m.get? a = n.get? a) : m = n := by
  cases m; cases n
  exact congrArg Memory.mk (Memory.rising_ext hm hn h)

/-- Writes to two different addresses commute. -/
theorem Memory.set_comm {m : Memory} (hm : m.wf) {a b : Nat} (v w : Byte) (h : a ≠ b) :
    (m.set a v).set b w = (m.set b w).set a v := by
  refine Memory.wf_ext (Memory.set_wf _ _ (Memory.set_wf _ _ hm)) (Memory.set_wf _ _ (Memory.set_wf _ _ hm)) fun k => ?_
  simp only [Memory.get?_set]
  split <;> split <;> simp_all

/-- The later of two writes to one address is what is left. -/
theorem Memory.set_set {m : Memory} (hm : m.wf) (a : Nat) (v w : Byte) : (m.set a v).set a w = m.set a w := by
  refine Memory.wf_ext (Memory.set_wf _ _ (Memory.set_wf _ _ hm)) (Memory.set_wf _ _ hm) fun k => ?_
  simp only [Memory.get?_set]
  split <;> rfl

/-- What the counted loop keeps: a property the body keeps in each of its rounds. -/
theorem forRange_keeps {α : Type} {P : α → Prop} {n : Nat} {body : Nat → α → α} {x : α} (h0 : P x)
    (hs : ∀ k y, k < n → P y → P (body k y)) : P (forRange n body x) := by
  induction n with
  | zero => exact h0
  | succ n ih => exact hs n _ (by omega) (ih fun k y hk => hs k y (by omega))

/-- What the counted loop does to a quantity that only round `k` sets: it has the value round `k` gives it. -/
theorem forRange_sets {α β : Type} {n k : Nat} {body : Nat → α → α} {x : α} {q : α → β} {v : β} (hk : k < n)
    (hit : ∀ y, q (body k y) = v) (miss : ∀ j y, k < j → j < n → q (body j y) = q y) :
    q (forRange n body x) = v := by
  induction n with
  | zero => omega
  | succ n ih =>
    rw [forRange]
    by_cases h : k = n
    · subst h; exact hit _
    · rw [miss n _ (by omega) (by omega)]
      exact ih (by omega) fun j y hj hn => miss j y hj (by omega)

/-- What the counted loop does to a quantity that no round changes: nothing. -/
theorem forRange_leaves {α β : Type} {n : Nat} {body : Nat → α → α} {x : α} {q : α → β}
    (miss : ∀ j y, j < n → q (body j y) = q y) : q (forRange n body x) = q x := by
  induction n with
  | zero => rfl
  | succ n ih => rw [forRange, miss n _ (by omega)]; exact ih fun j y hj => miss j y (by omega)

end Sys2Proof.Machine
end

