-- ==== Sys2Proof/Laws/State.lean ====
section
/-! SUPPORT. One lemma per field per update of State, true by definition and in the simp set, so that no later proof unfolds
a record update, and what each update does to a byte of a buffer. -/

namespace Sys2Proof.Machine

open Sys2Proof

@[simp] theorem State.withSrc_status (s : State) (m : Memory) : (s.withSrc m).status = s.status := rfl
@[simp] theorem State.withSrc_srcLen (s : State) (m : Memory) : (s.withSrc m).srcLen = s.srcLen := rfl
@[simp] theorem State.withSrc_imgWidth (s : State) (m : Memory) : (s.withSrc m).imgWidth = s.imgWidth := rfl
@[simp] theorem State.withSrc_imgHeight (s : State) (m : Memory) : (s.withSrc m).imgHeight = s.imgHeight := rfl
@[simp] theorem State.withSrc_imgFmt (s : State) (m : Memory) : (s.withSrc m).imgFmt = s.imgFmt := rfl
@[simp] theorem State.withSrc_lineX0 (s : State) (m : Memory) : (s.withSrc m).lineX0 = s.lineX0 := rfl
@[simp] theorem State.withSrc_lineY0 (s : State) (m : Memory) : (s.withSrc m).lineY0 = s.lineY0 := rfl
@[simp] theorem State.withSrc_lineX1 (s : State) (m : Memory) : (s.withSrc m).lineX1 = s.lineX1 := rfl
@[simp] theorem State.withSrc_lineY1 (s : State) (m : Memory) : (s.withSrc m).lineY1 = s.lineY1 := rfl
@[simp] theorem State.withSrc_rowStride (s : State) (m : Memory) : (s.withSrc m).rowStride = s.rowStride := rfl
@[simp] theorem State.withSrc_pOffset (s : State) (m : Memory) : (s.withSrc m).pOffset = s.pOffset := rfl
@[simp] theorem State.withSrc_pDibsize (s : State) (m : Memory) : (s.withSrc m).pDibsize = s.pDibsize := rfl
@[simp] theorem State.withSrc_pWidth (s : State) (m : Memory) : (s.withSrc m).pWidth = s.pWidth := rfl
@[simp] theorem State.withSrc_pHeight (s : State) (m : Memory) : (s.withSrc m).pHeight = s.pHeight := rfl
@[simp] theorem State.withSrc_pBitcnt (s : State) (m : Memory) : (s.withSrc m).pBitcnt = s.pBitcnt := rfl
@[simp] theorem State.withSrc_dstLen (s : State) (m : Memory) : (s.withSrc m).dstLen = s.dstLen := rfl
@[simp] theorem State.withSrc_capSrc (s : State) (m : Memory) : (s.withSrc m).capSrc = s.capSrc := rfl
@[simp] theorem State.withSrc_capPix (s : State) (m : Memory) : (s.withSrc m).capPix = s.capPix := rfl
@[simp] theorem State.withSrc_capDst (s : State) (m : Memory) : (s.withSrc m).capDst = s.capDst := rfl
@[simp] theorem State.withSrc_src (s : State) (m : Memory) : (s.withSrc m).src = m := rfl
@[simp] theorem State.withSrc_pix (s : State) (m : Memory) : (s.withSrc m).pix = s.pix := rfl
@[simp] theorem State.withSrc_dst (s : State) (m : Memory) : (s.withSrc m).dst = s.dst := rfl
@[simp] theorem State.withSrc_resets (s : State) (m : Memory) : (s.withSrc m).resets = s.resets := rfl
@[simp] theorem State.withSrc_inbox (s : State) (m : Memory) : (s.withSrc m).inbox = s.inbox := rfl
@[simp] theorem State.withSrc_rdata (s : State) (m : Memory) : (s.withSrc m).rdata = s.rdata := rfl

@[simp] theorem State.withPix_status (s : State) (m : Memory) : (s.withPix m).status = s.status := rfl
@[simp] theorem State.withPix_srcLen (s : State) (m : Memory) : (s.withPix m).srcLen = s.srcLen := rfl
@[simp] theorem State.withPix_imgWidth (s : State) (m : Memory) : (s.withPix m).imgWidth = s.imgWidth := rfl
@[simp] theorem State.withPix_imgHeight (s : State) (m : Memory) : (s.withPix m).imgHeight = s.imgHeight := rfl
@[simp] theorem State.withPix_imgFmt (s : State) (m : Memory) : (s.withPix m).imgFmt = s.imgFmt := rfl
@[simp] theorem State.withPix_lineX0 (s : State) (m : Memory) : (s.withPix m).lineX0 = s.lineX0 := rfl
@[simp] theorem State.withPix_lineY0 (s : State) (m : Memory) : (s.withPix m).lineY0 = s.lineY0 := rfl
@[simp] theorem State.withPix_lineX1 (s : State) (m : Memory) : (s.withPix m).lineX1 = s.lineX1 := rfl
@[simp] theorem State.withPix_lineY1 (s : State) (m : Memory) : (s.withPix m).lineY1 = s.lineY1 := rfl
@[simp] theorem State.withPix_rowStride (s : State) (m : Memory) : (s.withPix m).rowStride = s.rowStride := rfl
@[simp] theorem State.withPix_pOffset (s : State) (m : Memory) : (s.withPix m).pOffset = s.pOffset := rfl
@[simp] theorem State.withPix_pDibsize (s : State) (m : Memory) : (s.withPix m).pDibsize = s.pDibsize := rfl
@[simp] theorem State.withPix_pWidth (s : State) (m : Memory) : (s.withPix m).pWidth = s.pWidth := rfl
@[simp] theorem State.withPix_pHeight (s : State) (m : Memory) : (s.withPix m).pHeight = s.pHeight := rfl
@[simp] theorem State.withPix_pBitcnt (s : State) (m : Memory) : (s.withPix m).pBitcnt = s.pBitcnt := rfl
@[simp] theorem State.withPix_dstLen (s : State) (m : Memory) : (s.withPix m).dstLen = s.dstLen := rfl
@[simp] theorem State.withPix_capSrc (s : State) (m : Memory) : (s.withPix m).capSrc = s.capSrc := rfl
@[simp] theorem State.withPix_capPix (s : State) (m : Memory) : (s.withPix m).capPix = s.capPix := rfl
@[simp] theorem State.withPix_capDst (s : State) (m : Memory) : (s.withPix m).capDst = s.capDst := rfl
@[simp] theorem State.withPix_src (s : State) (m : Memory) : (s.withPix m).src = s.src := rfl
@[simp] theorem State.withPix_pix (s : State) (m : Memory) : (s.withPix m).pix = m := rfl
@[simp] theorem State.withPix_dst (s : State) (m : Memory) : (s.withPix m).dst = s.dst := rfl
@[simp] theorem State.withPix_resets (s : State) (m : Memory) : (s.withPix m).resets = s.resets := rfl
@[simp] theorem State.withPix_inbox (s : State) (m : Memory) : (s.withPix m).inbox = s.inbox := rfl
@[simp] theorem State.withPix_rdata (s : State) (m : Memory) : (s.withPix m).rdata = s.rdata := rfl

@[simp] theorem State.withDst_status (s : State) (m : Memory) : (s.withDst m).status = s.status := rfl
@[simp] theorem State.withDst_srcLen (s : State) (m : Memory) : (s.withDst m).srcLen = s.srcLen := rfl
@[simp] theorem State.withDst_imgWidth (s : State) (m : Memory) : (s.withDst m).imgWidth = s.imgWidth := rfl
@[simp] theorem State.withDst_imgHeight (s : State) (m : Memory) : (s.withDst m).imgHeight = s.imgHeight := rfl
@[simp] theorem State.withDst_imgFmt (s : State) (m : Memory) : (s.withDst m).imgFmt = s.imgFmt := rfl
@[simp] theorem State.withDst_lineX0 (s : State) (m : Memory) : (s.withDst m).lineX0 = s.lineX0 := rfl
@[simp] theorem State.withDst_lineY0 (s : State) (m : Memory) : (s.withDst m).lineY0 = s.lineY0 := rfl
@[simp] theorem State.withDst_lineX1 (s : State) (m : Memory) : (s.withDst m).lineX1 = s.lineX1 := rfl
@[simp] theorem State.withDst_lineY1 (s : State) (m : Memory) : (s.withDst m).lineY1 = s.lineY1 := rfl
@[simp] theorem State.withDst_rowStride (s : State) (m : Memory) : (s.withDst m).rowStride = s.rowStride := rfl
@[simp] theorem State.withDst_pOffset (s : State) (m : Memory) : (s.withDst m).pOffset = s.pOffset := rfl
@[simp] theorem State.withDst_pDibsize (s : State) (m : Memory) : (s.withDst m).pDibsize = s.pDibsize := rfl
@[simp] theorem State.withDst_pWidth (s : State) (m : Memory) : (s.withDst m).pWidth = s.pWidth := rfl
@[simp] theorem State.withDst_pHeight (s : State) (m : Memory) : (s.withDst m).pHeight = s.pHeight := rfl
@[simp] theorem State.withDst_pBitcnt (s : State) (m : Memory) : (s.withDst m).pBitcnt = s.pBitcnt := rfl
@[simp] theorem State.withDst_dstLen (s : State) (m : Memory) : (s.withDst m).dstLen = s.dstLen := rfl
@[simp] theorem State.withDst_capSrc (s : State) (m : Memory) : (s.withDst m).capSrc = s.capSrc := rfl
@[simp] theorem State.withDst_capPix (s : State) (m : Memory) : (s.withDst m).capPix = s.capPix := rfl
@[simp] theorem State.withDst_capDst (s : State) (m : Memory) : (s.withDst m).capDst = s.capDst := rfl
@[simp] theorem State.withDst_src (s : State) (m : Memory) : (s.withDst m).src = s.src := rfl
@[simp] theorem State.withDst_pix (s : State) (m : Memory) : (s.withDst m).pix = s.pix := rfl
@[simp] theorem State.withDst_dst (s : State) (m : Memory) : (s.withDst m).dst = m := rfl
@[simp] theorem State.withDst_resets (s : State) (m : Memory) : (s.withDst m).resets = s.resets := rfl
@[simp] theorem State.withDst_inbox (s : State) (m : Memory) : (s.withDst m).inbox = s.inbox := rfl
@[simp] theorem State.withDst_rdata (s : State) (m : Memory) : (s.withDst m).rdata = s.rdata := rfl

@[simp] theorem State.answer_status (s : State) (v : Word) : (s.answer v).status = s.status := rfl
@[simp] theorem State.answer_srcLen (s : State) (v : Word) : (s.answer v).srcLen = s.srcLen := rfl
@[simp] theorem State.answer_imgWidth (s : State) (v : Word) : (s.answer v).imgWidth = s.imgWidth := rfl
@[simp] theorem State.answer_imgHeight (s : State) (v : Word) : (s.answer v).imgHeight = s.imgHeight := rfl
@[simp] theorem State.answer_imgFmt (s : State) (v : Word) : (s.answer v).imgFmt = s.imgFmt := rfl
@[simp] theorem State.answer_lineX0 (s : State) (v : Word) : (s.answer v).lineX0 = s.lineX0 := rfl
@[simp] theorem State.answer_lineY0 (s : State) (v : Word) : (s.answer v).lineY0 = s.lineY0 := rfl
@[simp] theorem State.answer_lineX1 (s : State) (v : Word) : (s.answer v).lineX1 = s.lineX1 := rfl
@[simp] theorem State.answer_lineY1 (s : State) (v : Word) : (s.answer v).lineY1 = s.lineY1 := rfl
@[simp] theorem State.answer_rowStride (s : State) (v : Word) : (s.answer v).rowStride = s.rowStride := rfl
@[simp] theorem State.answer_pOffset (s : State) (v : Word) : (s.answer v).pOffset = s.pOffset := rfl
@[simp] theorem State.answer_pDibsize (s : State) (v : Word) : (s.answer v).pDibsize = s.pDibsize := rfl
@[simp] theorem State.answer_pWidth (s : State) (v : Word) : (s.answer v).pWidth = s.pWidth := rfl
@[simp] theorem State.answer_pHeight (s : State) (v : Word) : (s.answer v).pHeight = s.pHeight := rfl
@[simp] theorem State.answer_pBitcnt (s : State) (v : Word) : (s.answer v).pBitcnt = s.pBitcnt := rfl
@[simp] theorem State.answer_dstLen (s : State) (v : Word) : (s.answer v).dstLen = s.dstLen := rfl
@[simp] theorem State.answer_capSrc (s : State) (v : Word) : (s.answer v).capSrc = s.capSrc := rfl
@[simp] theorem State.answer_capPix (s : State) (v : Word) : (s.answer v).capPix = s.capPix := rfl
@[simp] theorem State.answer_capDst (s : State) (v : Word) : (s.answer v).capDst = s.capDst := rfl
@[simp] theorem State.answer_src (s : State) (v : Word) : (s.answer v).src = s.src := rfl
@[simp] theorem State.answer_pix (s : State) (v : Word) : (s.answer v).pix = s.pix := rfl
@[simp] theorem State.answer_dst (s : State) (v : Word) : (s.answer v).dst = s.dst := rfl
@[simp] theorem State.answer_resets (s : State) (v : Word) : (s.answer v).resets = s.resets := rfl
@[simp] theorem State.answer_inbox (s : State) (v : Word) : (s.answer v).inbox = s.inbox := rfl
@[simp] theorem State.answer_rdata (s : State) (v : Word) : (s.answer v).rdata = v := rfl

@[simp] theorem State.complete_status (s : State) : s.complete.status = statusDone := rfl
@[simp] theorem State.complete_srcLen (s : State) : s.complete.srcLen = s.srcLen := rfl
@[simp] theorem State.complete_imgWidth (s : State) : s.complete.imgWidth = s.imgWidth := rfl
@[simp] theorem State.complete_imgHeight (s : State) : s.complete.imgHeight = s.imgHeight := rfl
@[simp] theorem State.complete_imgFmt (s : State) : s.complete.imgFmt = s.imgFmt := rfl
@[simp] theorem State.complete_lineX0 (s : State) : s.complete.lineX0 = s.lineX0 := rfl
@[simp] theorem State.complete_lineY0 (s : State) : s.complete.lineY0 = s.lineY0 := rfl
@[simp] theorem State.complete_lineX1 (s : State) : s.complete.lineX1 = s.lineX1 := rfl
@[simp] theorem State.complete_lineY1 (s : State) : s.complete.lineY1 = s.lineY1 := rfl
@[simp] theorem State.complete_rowStride (s : State) : s.complete.rowStride = s.rowStride := rfl
@[simp] theorem State.complete_pOffset (s : State) : s.complete.pOffset = s.pOffset := rfl
@[simp] theorem State.complete_pDibsize (s : State) : s.complete.pDibsize = s.pDibsize := rfl
@[simp] theorem State.complete_pWidth (s : State) : s.complete.pWidth = s.pWidth := rfl
@[simp] theorem State.complete_pHeight (s : State) : s.complete.pHeight = s.pHeight := rfl
@[simp] theorem State.complete_pBitcnt (s : State) : s.complete.pBitcnt = s.pBitcnt := rfl
@[simp] theorem State.complete_dstLen (s : State) : s.complete.dstLen = s.dstLen := rfl
@[simp] theorem State.complete_capSrc (s : State) : s.complete.capSrc = s.capSrc := rfl
@[simp] theorem State.complete_capPix (s : State) : s.complete.capPix = s.capPix := rfl
@[simp] theorem State.complete_capDst (s : State) : s.complete.capDst = s.capDst := rfl
@[simp] theorem State.complete_src (s : State) : s.complete.src = s.src := rfl
@[simp] theorem State.complete_pix (s : State) : s.complete.pix = s.pix := rfl
@[simp] theorem State.complete_dst (s : State) : s.complete.dst = s.dst := rfl
@[simp] theorem State.complete_resets (s : State) : s.complete.resets = s.resets := rfl
@[simp] theorem State.complete_inbox (s : State) : s.complete.inbox = s.inbox := rfl
@[simp] theorem State.complete_rdata (s : State) : s.complete.rdata = s.rdata := rfl

@[simp] theorem State.raise_status (s : State) (e : Error) : (s.raise e).status = statusError e := rfl
@[simp] theorem State.raise_srcLen (s : State) (e : Error) : (s.raise e).srcLen = s.srcLen := rfl
@[simp] theorem State.raise_imgWidth (s : State) (e : Error) : (s.raise e).imgWidth = s.imgWidth := rfl
@[simp] theorem State.raise_imgHeight (s : State) (e : Error) : (s.raise e).imgHeight = s.imgHeight := rfl
@[simp] theorem State.raise_imgFmt (s : State) (e : Error) : (s.raise e).imgFmt = s.imgFmt := rfl
@[simp] theorem State.raise_lineX0 (s : State) (e : Error) : (s.raise e).lineX0 = s.lineX0 := rfl
@[simp] theorem State.raise_lineY0 (s : State) (e : Error) : (s.raise e).lineY0 = s.lineY0 := rfl
@[simp] theorem State.raise_lineX1 (s : State) (e : Error) : (s.raise e).lineX1 = s.lineX1 := rfl
@[simp] theorem State.raise_lineY1 (s : State) (e : Error) : (s.raise e).lineY1 = s.lineY1 := rfl
@[simp] theorem State.raise_rowStride (s : State) (e : Error) : (s.raise e).rowStride = s.rowStride := rfl
@[simp] theorem State.raise_pOffset (s : State) (e : Error) : (s.raise e).pOffset = s.pOffset := rfl
@[simp] theorem State.raise_pDibsize (s : State) (e : Error) : (s.raise e).pDibsize = s.pDibsize := rfl
@[simp] theorem State.raise_pWidth (s : State) (e : Error) : (s.raise e).pWidth = s.pWidth := rfl
@[simp] theorem State.raise_pHeight (s : State) (e : Error) : (s.raise e).pHeight = s.pHeight := rfl
@[simp] theorem State.raise_pBitcnt (s : State) (e : Error) : (s.raise e).pBitcnt = s.pBitcnt := rfl
@[simp] theorem State.raise_dstLen (s : State) (e : Error) : (s.raise e).dstLen = s.dstLen := rfl
@[simp] theorem State.raise_capSrc (s : State) (e : Error) : (s.raise e).capSrc = s.capSrc := rfl
@[simp] theorem State.raise_capPix (s : State) (e : Error) : (s.raise e).capPix = s.capPix := rfl
@[simp] theorem State.raise_capDst (s : State) (e : Error) : (s.raise e).capDst = s.capDst := rfl
@[simp] theorem State.raise_src (s : State) (e : Error) : (s.raise e).src = s.src := rfl
@[simp] theorem State.raise_pix (s : State) (e : Error) : (s.raise e).pix = s.pix := rfl
@[simp] theorem State.raise_dst (s : State) (e : Error) : (s.raise e).dst = s.dst := rfl
@[simp] theorem State.raise_resets (s : State) (e : Error) : (s.raise e).resets = s.resets := rfl
@[simp] theorem State.raise_inbox (s : State) (e : Error) : (s.raise e).inbox = s.inbox := rfl
@[simp] theorem State.raise_rdata (s : State) (e : Error) : (s.raise e).rdata = s.rdata := rfl

@[simp] theorem State.commitParse_status (s : State) (g : Geometry) : (s.commitParse g).status = s.status := rfl
@[simp] theorem State.commitParse_srcLen (s : State) (g : Geometry) : (s.commitParse g).srcLen = s.srcLen := rfl
@[simp] theorem State.commitParse_imgWidth (s : State) (g : Geometry) : (s.commitParse g).imgWidth = s.imgWidth := rfl
@[simp] theorem State.commitParse_imgHeight (s : State) (g : Geometry) : (s.commitParse g).imgHeight = s.imgHeight := rfl
@[simp] theorem State.commitParse_imgFmt (s : State) (g : Geometry) : (s.commitParse g).imgFmt = s.imgFmt := rfl
@[simp] theorem State.commitParse_lineX0 (s : State) (g : Geometry) : (s.commitParse g).lineX0 = s.lineX0 := rfl
@[simp] theorem State.commitParse_lineY0 (s : State) (g : Geometry) : (s.commitParse g).lineY0 = s.lineY0 := rfl
@[simp] theorem State.commitParse_lineX1 (s : State) (g : Geometry) : (s.commitParse g).lineX1 = s.lineX1 := rfl
@[simp] theorem State.commitParse_lineY1 (s : State) (g : Geometry) : (s.commitParse g).lineY1 = s.lineY1 := rfl
@[simp] theorem State.commitParse_rowStride (s : State) (g : Geometry) : (s.commitParse g).rowStride = BitVec.ofNat 32 g.stride := rfl
@[simp] theorem State.commitParse_pOffset (s : State) (g : Geometry) : (s.commitParse g).pOffset = BitVec.ofNat 32 g.off := rfl
@[simp] theorem State.commitParse_pDibsize (s : State) (g : Geometry) : (s.commitParse g).pDibsize = BitVec.ofNat 32 g.dib := rfl
@[simp] theorem State.commitParse_pWidth (s : State) (g : Geometry) : (s.commitParse g).pWidth = BitVec.ofInt 32 g.width := rfl
@[simp] theorem State.commitParse_pHeight (s : State) (g : Geometry) : (s.commitParse g).pHeight = BitVec.ofInt 32 g.height := rfl
@[simp] theorem State.commitParse_pBitcnt (s : State) (g : Geometry) : (s.commitParse g).pBitcnt = BitVec.ofNat 32 g.bitcnt := rfl
@[simp] theorem State.commitParse_dstLen (s : State) (g : Geometry) : (s.commitParse g).dstLen = s.dstLen := rfl
@[simp] theorem State.commitParse_capSrc (s : State) (g : Geometry) : (s.commitParse g).capSrc = s.capSrc := rfl
@[simp] theorem State.commitParse_capPix (s : State) (g : Geometry) : (s.commitParse g).capPix = s.capPix := rfl
@[simp] theorem State.commitParse_capDst (s : State) (g : Geometry) : (s.commitParse g).capDst = s.capDst := rfl
@[simp] theorem State.commitParse_src (s : State) (g : Geometry) : (s.commitParse g).src = s.src := rfl
@[simp] theorem State.commitParse_pix (s : State) (g : Geometry) : (s.commitParse g).pix = s.pix := rfl
@[simp] theorem State.commitParse_dst (s : State) (g : Geometry) : (s.commitParse g).dst = s.dst := rfl
@[simp] theorem State.commitParse_resets (s : State) (g : Geometry) : (s.commitParse g).resets = s.resets := rfl
@[simp] theorem State.commitParse_inbox (s : State) (g : Geometry) : (s.commitParse g).inbox = s.inbox := rfl
@[simp] theorem State.commitParse_rdata (s : State) (g : Geometry) : (s.commitParse g).rdata = s.rdata := rfl

@[simp] theorem State.commitImage_status (s : State) (g : Geometry) : (s.commitImage g).status = s.status := rfl
@[simp] theorem State.commitImage_srcLen (s : State) (g : Geometry) : (s.commitImage g).srcLen = s.srcLen := rfl
@[simp] theorem State.commitImage_imgWidth (s : State) (g : Geometry) : (s.commitImage g).imgWidth = BitVec.ofInt 32 g.width := rfl
@[simp] theorem State.commitImage_imgHeight (s : State) (g : Geometry) : (s.commitImage g).imgHeight = BitVec.ofNat 32 g.absH := rfl
@[simp] theorem State.commitImage_imgFmt (s : State) (g : Geometry) : (s.commitImage g).imgFmt = fmtWord g.bpp g.td := rfl
@[simp] theorem State.commitImage_lineX0 (s : State) (g : Geometry) : (s.commitImage g).lineX0 = s.lineX0 := rfl
@[simp] theorem State.commitImage_lineY0 (s : State) (g : Geometry) : (s.commitImage g).lineY0 = s.lineY0 := rfl
@[simp] theorem State.commitImage_lineX1 (s : State) (g : Geometry) : (s.commitImage g).lineX1 = s.lineX1 := rfl
@[simp] theorem State.commitImage_lineY1 (s : State) (g : Geometry) : (s.commitImage g).lineY1 = s.lineY1 := rfl
@[simp] theorem State.commitImage_rowStride (s : State) (g : Geometry) : (s.commitImage g).rowStride = s.rowStride := rfl
@[simp] theorem State.commitImage_pOffset (s : State) (g : Geometry) : (s.commitImage g).pOffset = s.pOffset := rfl
@[simp] theorem State.commitImage_pDibsize (s : State) (g : Geometry) : (s.commitImage g).pDibsize = s.pDibsize := rfl
@[simp] theorem State.commitImage_pWidth (s : State) (g : Geometry) : (s.commitImage g).pWidth = s.pWidth := rfl
@[simp] theorem State.commitImage_pHeight (s : State) (g : Geometry) : (s.commitImage g).pHeight = s.pHeight := rfl
@[simp] theorem State.commitImage_pBitcnt (s : State) (g : Geometry) : (s.commitImage g).pBitcnt = s.pBitcnt := rfl
@[simp] theorem State.commitImage_dstLen (s : State) (g : Geometry) : (s.commitImage g).dstLen = s.dstLen := rfl
@[simp] theorem State.commitImage_capSrc (s : State) (g : Geometry) : (s.commitImage g).capSrc = s.capSrc := rfl
@[simp] theorem State.commitImage_capPix (s : State) (g : Geometry) : (s.commitImage g).capPix = s.capPix := rfl
@[simp] theorem State.commitImage_capDst (s : State) (g : Geometry) : (s.commitImage g).capDst = s.capDst := rfl
@[simp] theorem State.commitImage_src (s : State) (g : Geometry) : (s.commitImage g).src = s.src := rfl
@[simp] theorem State.commitImage_pix (s : State) (g : Geometry) : (s.commitImage g).pix = s.pix := rfl
@[simp] theorem State.commitImage_dst (s : State) (g : Geometry) : (s.commitImage g).dst = s.dst := rfl
@[simp] theorem State.commitImage_resets (s : State) (g : Geometry) : (s.commitImage g).resets = s.resets := rfl
@[simp] theorem State.commitImage_inbox (s : State) (g : Geometry) : (s.commitImage g).inbox = s.inbox := rfl
@[simp] theorem State.commitImage_rdata (s : State) (g : Geometry) : (s.commitImage g).rdata = s.rdata := rfl

@[simp] theorem State.pop_status (s : State) : s.pop.status = s.status := rfl
@[simp] theorem State.pop_srcLen (s : State) : s.pop.srcLen = s.srcLen := rfl
@[simp] theorem State.pop_imgWidth (s : State) : s.pop.imgWidth = s.imgWidth := rfl
@[simp] theorem State.pop_imgHeight (s : State) : s.pop.imgHeight = s.imgHeight := rfl
@[simp] theorem State.pop_imgFmt (s : State) : s.pop.imgFmt = s.imgFmt := rfl
@[simp] theorem State.pop_lineX0 (s : State) : s.pop.lineX0 = s.lineX0 := rfl
@[simp] theorem State.pop_lineY0 (s : State) : s.pop.lineY0 = s.lineY0 := rfl
@[simp] theorem State.pop_lineX1 (s : State) : s.pop.lineX1 = s.lineX1 := rfl
@[simp] theorem State.pop_lineY1 (s : State) : s.pop.lineY1 = s.lineY1 := rfl
@[simp] theorem State.pop_rowStride (s : State) : s.pop.rowStride = s.rowStride := rfl
@[simp] theorem State.pop_pOffset (s : State) : s.pop.pOffset = s.pOffset := rfl
@[simp] theorem State.pop_pDibsize (s : State) : s.pop.pDibsize = s.pDibsize := rfl
@[simp] theorem State.pop_pWidth (s : State) : s.pop.pWidth = s.pWidth := rfl
@[simp] theorem State.pop_pHeight (s : State) : s.pop.pHeight = s.pHeight := rfl
@[simp] theorem State.pop_pBitcnt (s : State) : s.pop.pBitcnt = s.pBitcnt := rfl
@[simp] theorem State.pop_dstLen (s : State) : s.pop.dstLen = s.dstLen := rfl
@[simp] theorem State.pop_capSrc (s : State) : s.pop.capSrc = s.capSrc := rfl
@[simp] theorem State.pop_capPix (s : State) : s.pop.capPix = s.capPix := rfl
@[simp] theorem State.pop_capDst (s : State) : s.pop.capDst = s.capDst := rfl
@[simp] theorem State.pop_src (s : State) : s.pop.src = s.src := rfl
@[simp] theorem State.pop_pix (s : State) : s.pop.pix = s.pix := rfl
@[simp] theorem State.pop_dst (s : State) : s.pop.dst = s.dst := rfl
@[simp] theorem State.pop_resets (s : State) : s.pop.resets = s.resets := rfl
@[simp] theorem State.pop_inbox (s : State) : s.pop.inbox = s.inbox.tail := rfl
@[simp] theorem State.pop_rdata (s : State) : s.pop.rdata = s.rdata := rfl

@[simp] theorem State.takeReset_status (s : State) : s.takeReset.status = 0#32 := rfl
@[simp] theorem State.takeReset_srcLen (s : State) : s.takeReset.srcLen = 0#32 := rfl
@[simp] theorem State.takeReset_imgWidth (s : State) : s.takeReset.imgWidth = 0#32 := rfl
@[simp] theorem State.takeReset_imgHeight (s : State) : s.takeReset.imgHeight = 0#32 := rfl
@[simp] theorem State.takeReset_imgFmt (s : State) : s.takeReset.imgFmt = 0#32 := rfl
@[simp] theorem State.takeReset_lineX0 (s : State) : s.takeReset.lineX0 = 0#32 := rfl
@[simp] theorem State.takeReset_lineY0 (s : State) : s.takeReset.lineY0 = 0#32 := rfl
@[simp] theorem State.takeReset_lineX1 (s : State) : s.takeReset.lineX1 = 0#32 := rfl
@[simp] theorem State.takeReset_lineY1 (s : State) : s.takeReset.lineY1 = 0#32 := rfl
@[simp] theorem State.takeReset_rowStride (s : State) : s.takeReset.rowStride = 0#32 := rfl
@[simp] theorem State.takeReset_pOffset (s : State) : s.takeReset.pOffset = 0#32 := rfl
@[simp] theorem State.takeReset_pDibsize (s : State) : s.takeReset.pDibsize = 0#32 := rfl
@[simp] theorem State.takeReset_pWidth (s : State) : s.takeReset.pWidth = 0#32 := rfl
@[simp] theorem State.takeReset_pHeight (s : State) : s.takeReset.pHeight = 0#32 := rfl
@[simp] theorem State.takeReset_pBitcnt (s : State) : s.takeReset.pBitcnt = 0#32 := rfl
@[simp] theorem State.takeReset_dstLen (s : State) : s.takeReset.dstLen = 0#32 := rfl
@[simp] theorem State.takeReset_capSrc (s : State) : s.takeReset.capSrc = s.capSrc := rfl
@[simp] theorem State.takeReset_capPix (s : State) : s.takeReset.capPix = s.capPix := rfl
@[simp] theorem State.takeReset_capDst (s : State) : s.takeReset.capDst = s.capDst := rfl
@[simp] theorem State.takeReset_src (s : State) : s.takeReset.src = Memory.empty := rfl
@[simp] theorem State.takeReset_pix (s : State) : s.takeReset.pix = Memory.empty := rfl
@[simp] theorem State.takeReset_dst (s : State) : s.takeReset.dst = Memory.empty := rfl
@[simp] theorem State.takeReset_resets (s : State) : s.takeReset.resets = s.resets + 1 := rfl
@[simp] theorem State.takeReset_inbox (s : State) : s.takeReset.inbox = s.inbox := rfl
@[simp] theorem State.takeReset_rdata (s : State) : s.takeReset.rdata = 0#32 := rfl

@[simp] theorem State.withSrc_byteAt_src (s : State) (m : Memory) (i : Nat) : (s.withSrc m).byteAt .src i = (m.get? i).getD (Config.resetByte s.resets .src i) := rfl
@[simp] theorem State.withSrc_byteAt_pix (s : State) (m : Memory) (i : Nat) : (s.withSrc m).byteAt .pix i = s.byteAt .pix i := rfl
@[simp] theorem State.withSrc_byteAt_dst (s : State) (m : Memory) (i : Nat) : (s.withSrc m).byteAt .dst i = s.byteAt .dst i := rfl
@[simp] theorem State.withSrc_cap (s : State) (m : Memory) (b : Buf) : (s.withSrc m).cap b = s.cap b := by cases b <;> rfl
@[simp] theorem State.withPix_byteAt_src (s : State) (m : Memory) (i : Nat) : (s.withPix m).byteAt .src i = s.byteAt .src i := rfl
@[simp] theorem State.withPix_byteAt_pix (s : State) (m : Memory) (i : Nat) : (s.withPix m).byteAt .pix i = (m.get? i).getD (Config.resetByte s.resets .pix i) := rfl
@[simp] theorem State.withPix_byteAt_dst (s : State) (m : Memory) (i : Nat) : (s.withPix m).byteAt .dst i = s.byteAt .dst i := rfl
@[simp] theorem State.withPix_cap (s : State) (m : Memory) (b : Buf) : (s.withPix m).cap b = s.cap b := by cases b <;> rfl
@[simp] theorem State.withDst_byteAt_src (s : State) (m : Memory) (i : Nat) : (s.withDst m).byteAt .src i = s.byteAt .src i := rfl
@[simp] theorem State.withDst_byteAt_pix (s : State) (m : Memory) (i : Nat) : (s.withDst m).byteAt .pix i = s.byteAt .pix i := rfl
@[simp] theorem State.withDst_byteAt_dst (s : State) (m : Memory) (i : Nat) : (s.withDst m).byteAt .dst i = (m.get? i).getD (Config.resetByte s.resets .dst i) := rfl
@[simp] theorem State.withDst_cap (s : State) (m : Memory) (b : Buf) : (s.withDst m).cap b = s.cap b := by cases b <;> rfl
@[simp] theorem State.answer_byteAt (s : State) (v : Word) (b : Buf) (i : Nat) : (s.answer v).byteAt b i = s.byteAt b i := by cases b <;> rfl
@[simp] theorem State.answer_cap (s : State) (v : Word) (b : Buf) : (s.answer v).cap b = s.cap b := by cases b <;> rfl
@[simp] theorem State.complete_byteAt (s : State) (b : Buf) (i : Nat) : s.complete.byteAt b i = s.byteAt b i := by cases b <;> rfl
@[simp] theorem State.complete_cap (s : State) (b : Buf) : s.complete.cap b = s.cap b := by cases b <;> rfl
@[simp] theorem State.raise_byteAt (s : State) (e : Error) (b : Buf) (i : Nat) : (s.raise e).byteAt b i = s.byteAt b i := by cases b <;> rfl
@[simp] theorem State.raise_cap (s : State) (e : Error) (b : Buf) : (s.raise e).cap b = s.cap b := by cases b <;> rfl
@[simp] theorem State.commitParse_byteAt (s : State) (g : Geometry) (b : Buf) (i : Nat) : (s.commitParse g).byteAt b i = s.byteAt b i := by cases b <;> rfl
@[simp] theorem State.commitParse_cap (s : State) (g : Geometry) (b : Buf) : (s.commitParse g).cap b = s.cap b := by cases b <;> rfl
@[simp] theorem State.commitImage_byteAt (s : State) (g : Geometry) (b : Buf) (i : Nat) : (s.commitImage g).byteAt b i = s.byteAt b i := by cases b <;> rfl
@[simp] theorem State.commitImage_cap (s : State) (g : Geometry) (b : Buf) : (s.commitImage g).cap b = s.cap b := by cases b <;> rfl
@[simp] theorem State.pop_byteAt (s : State) (b : Buf) (i : Nat) : s.pop.byteAt b i = s.byteAt b i := by cases b <;> rfl
@[simp] theorem State.pop_cap (s : State) (b : Buf) : s.pop.cap b = s.cap b := by cases b <;> rfl

@[simp] theorem Memory.get?_empty (a : Nat) : Memory.empty.get? a = none := rfl

/-- After a reset event every buffer byte is the free value of that reset (R47, R270). -/
@[simp] theorem State.takeReset_byteAt (s : State) (b : Buf) (i : Nat) :
    s.takeReset.byteAt b i = Config.resetByte (s.resets + 1) b i := by cases b <;> rfl
@[simp] theorem State.takeReset_cap (s : State) (b : Buf) : s.takeReset.cap b = s.cap b := by cases b <;> rfl
@[simp] theorem State.mem_src (s : State) : s.mem .src = s.src := rfl
@[simp] theorem State.mem_pix (s : State) : s.mem .pix = s.pix := rfl
@[simp] theorem State.mem_dst (s : State) : s.mem .dst = s.dst := rfl

end Sys2Proof.Machine
end

