-- ==== Sys2Proof/Laws/Line.lean ====
section
/-! SUPPORT. What `plot` and the line loop do (R204, R205, R206). -/

namespace Sys2Proof.Machine

open Sys2Proof

theorem fmtBpp_eq (w : Word) : fmtBpp w = 3 ∨ fmtBpp w = 4 := by
  simp only [fmtBpp]
  cases fmtBpp4 w <;> simp

theorem blackPixel_length {bpp : Nat} (h : bpp = 3 ∨ bpp = 4) : (blackPixel bpp).length = bpp := by
  rcases h with rfl | rfl <;> rfl

/-- The line loop is: plot every point of the trace, in order. -/
theorem LineSetup.loop_eq_foldl (l : LineSetup) (n : Nat) (p : LinePoint) (m : Memory) :
    l.loop n p m = (l.trace n p).foldl (fun m q => l.plot q m) m := by
  induction n generalizing p m with
  | zero => rfl
  | succ n ih =>
    simp only [LineSetup.loop, LineSetup.trace]
    split
    · rfl
    · rw [List.foldl_cons, ih]

theorem LineSetup.plot_outside (l : LineSetup) (p : LinePoint) (m : Memory) (h : ¬ l.inside p) : l.plot p m = m :=
  if_neg h

/-- `plot` inside the window: the bytes of its pixel become the black pixel's, every other byte stays (R205). -/
theorem LineSetup.plot_inside (l : LineSetup) (p : LinePoint) (m : Memory) (h : l.inside p)
    (hb : l.bpp = 3 ∨ l.bpp = 4) (i : Nat) :
    (l.plot p m).get? i =
      if pixelIndex l.w.toNat l.bpp p.x.toNat p.y.toNat 0 ≤ i ∧ i < pixelIndex l.w.toNat l.bpp p.x.toNat p.y.toNat 0 + l.bpp
      then (blackPixel l.bpp)[i - pixelIndex l.w.toNat l.bpp p.x.toNat p.y.toNat 0]? else m.get? i := by
  rw [LineSetup.plot, if_pos h, Memory.get?_setMany, blackPixel_length hb]

/-- The pixel of a point inside the window ends at or below w × h × bpp (R206). -/
theorem pixelIndex_bound {w h bpp x y : Nat} (hx : x < w) (hy : y < h) :
    pixelIndex w bpp x y 0 + bpp ≤ w * h * bpp := by
  have h1 : y * w + x + 1 ≤ h * w := by
    have := Nat.mul_le_mul_right w (Nat.succ_le_of_lt hy)
    rw [Nat.succ_mul] at this
    omega
  have h2 := Nat.mul_le_mul_right bpp h1
  rw [Nat.add_mul, Nat.one_mul, Nat.mul_comm h w] at h2
  simpa [pixelIndex] using h2

/-- Plotting keeps the canonical form and the bound of a buffer that holds the Image (R206). -/
theorem LineSetup.plot_ok (l : LineSetup) (p : LinePoint) {m : Memory} {n : Nat} (hb : l.bpp = 3 ∨ l.bpp = 4)
    (hn : 0 < l.w → 0 < l.h → l.w.toNat * l.h.toNat * l.bpp ≤ n) (h : m.wf ∧ ∀ c ∈ m.cells, c.1 < n) :
    (l.plot p m).wf ∧ ∀ c ∈ (l.plot p m).cells, c.1 < n := by
  rw [LineSetup.plot]
  split
  · next hin =>
    obtain ⟨hx0, hx, hy0, hy⟩ := hin
    have hi := pixelIndex_bound (bpp := l.bpp) (show p.x.toNat < l.w.toNat by omega) (show p.y.toNat < l.h.toNat by omega)
    have hn := hn (by omega) (by omega)
    exact ⟨Memory.setMany_wf _ _ h.1, Memory.setMany_bound _ (by rw [blackPixel_length hb]; omega) h.2⟩
  · exact h

/-- The line loop keeps the canonical form and the bound of a buffer that holds the Image (R206). -/
theorem LineSetup.loop_ok (l : LineSetup) (k : Nat) (p : LinePoint) {m : Memory} {n : Nat}
    (hb : l.bpp = 3 ∨ l.bpp = 4) (hn : 0 < l.w → 0 < l.h → l.w.toNat * l.h.toNat * l.bpp ≤ n)
    (h : m.wf ∧ ∀ c ∈ m.cells, c.1 < n) :
    (l.loop k p m).wf ∧ ∀ c ∈ (l.loop k p m).cells, c.1 < n := by
  induction k generalizing p m with
  | zero => exact h
  | succ k ih =>
    rw [LineSetup.loop]
    split
    · exact l.plot_ok p hb hn h
    · exact ih _ (l.plot_ok p hb hn h)

end Sys2Proof.Machine
end

