-- ==== Sys2Proof/Laws/Parse.lean ====
section
/-! SUPPORT. What `parse` can answer: the inversion of a successful parse, and the error kinds it can raise. -/

namespace Sys2Proof.Machine

open Sys2Proof

theorem u16le_lt (B : Nat → Byte) (a : Nat) : u16le B a < 2 ^ 16 := by
  have h0 := (B a).isLt
  have h1 := (B (a + 1)).isLt
  simp only [u16le]
  omega

theorem u32le_lt (B : Nat → Byte) (a : Nat) : u32le B a < 2 ^ 32 := by
  have h0 := (B a).isLt
  have h1 := (B (a + 1)).isLt
  have h2 := (B (a + 2)).isLt
  have h3 := (B (a + 3)).isLt
  simp only [u32le]
  omega

theorem sext32_range {v : Nat} (h : v < 2 ^ 32) : -2 ^ 31 ≤ sext32 v ∧ sext32 v < 2 ^ 31 := by
  simp only [sext32]
  split <;> omega

/-- The stride holds the row, in whole words. -/
theorem rowStrideOf_bounds (w bpp : Nat) :
    rowStrideOf w bpp % 4 = 0 ∧ w * bpp ≤ rowStrideOf w bpp ∧ rowStrideOf w bpp < w * bpp + 4 := by
  simp only [rowStrideOf]
  omega

/-- A successful parse passed every check and returns the fields' record (R141). -/
theorem parse_ok {S : Nat → Byte} {L : Nat} {g : Geometry} (h : parse S L = .ok g) :
    g = geometryOf S ∧ 14 + g.dib ≤ L ∧ 40 ≤ g.dib ∧ S 0 = 0x42#8 ∧ S 1 = 0x4D#8 ∧ u32le S 30 = 0 ∧
      (g.bitcnt = 24 ∨ g.bitcnt = 32) ∧ u16le S 26 = 1 ∧ 0 < g.width ∧ 0 < g.absH ∧
      g.off + g.need ≤ L := by
  simp only [parse, checkFields] at h
  split at h
  · cases h
  split at h
  · cases h
  split at h
  · cases h
  split at h
  · cases h
  split at h
  · cases h
  split at h
  · cases h
  split at h
  · cases h
  split at h
  · cases h
  split at h
  · cases h
  split at h
  · cases h
  next h14 hm h18 hd h40 hc hb hp hdim ht =>
    cases h
    have hdib : (geometryOf S).dib = u32le S 14 := rfl
    refine ⟨rfl, by rw [hdib]; omega, by rw [hdib]; omega, ?_, ?_, by omega, by omega, by omega, by omega, by omega,
      by omega⟩
    · exact Classical.byContradiction fun e => hm (.inl e)
    · exact Classical.byContradiction fun e => hm (.inr e)

/-- `parse` raises only the kinds of decode's FormatError, codes 1 to 7 (R241). -/
theorem parse_error {S : Nat → Byte} {L : Nat} {e : Error} (h : parse S L = .error e) :
    e ≠ .invalidImage ∧ e ≠ .capacity ∧ e ≠ .illegalCommand := by
  simp only [parse, checkFields] at h
  repeat' split at h
  all_goals first
    | (cases h; decide)
    | cases h

theorem geometryOf_bpp {S : Nat → Byte} (h : (geometryOf S).bitcnt = 24 ∨ (geometryOf S).bitcnt = 32) :
    (geometryOf S).bitcnt = 24 ∧ (geometryOf S).bpp = 3 ∨ (geometryOf S).bitcnt = 32 ∧ (geometryOf S).bpp = 4 := by
  simp only [geometryOf] at h ⊢
  omega

/-- The pixel bytes of a row fit its stride. -/
theorem geometryOf_rowBytes_le (S : Nat → Byte) : (geometryOf S).rowBytes ≤ (geometryOf S).stride :=
  (rowStrideOf_bounds _ _).2.1

end Sys2Proof.Machine
end

