-- ==== Sys2Proof/Laws/Rows.lean ====
section
/-! SUPPORT. What the row copies and the header emission do to every byte of their buffer (R162, R182, R184), and that
they keep the canonical form and the bounds (R163, R185). -/

namespace Sys2Proof.Machine

open Sys2Proof

theorem canonicalRow_lt {r h : Nat} (td : Bool) (hr : r < h) : canonicalRow r h td < h := by
  cases td
  · simp only [canonicalRow, Bool.false_eq_true, if_false]; omega
  · simpa [canonicalRow] using hr

theorem canonicalRow_twice {r h : Nat} (td : Bool) (hr : r < h) : canonicalRow (canonicalRow r h td) h td = r := by
  cases td
  · simp only [canonicalRow, Bool.false_eq_true, if_false]; omega
  · simp [canonicalRow]

/-- Bytes of two different rows have different indices. -/
theorem row_index_ne {n y z j k : Nat} (h : y ≠ z) (hj : j < n) (hk : k < n) : y * n + j ≠ z * n + k := by
  intro e
  rcases Nat.lt_or_gt_of_ne h with h | h
  · have := Nat.mul_le_mul_right n (Nat.succ_le_of_lt h)
    rw [Nat.succ_mul] at this
    omega
  · have := Nat.mul_le_mul_right n (Nat.succ_le_of_lt h)
    rw [Nat.succ_mul] at this
    omega

/-- The bytes of row `y` of `h` rows of `n` bytes lie below h × n. -/
theorem row_index_lt {n y h j : Nat} (hy : y < h) (hj : j < n) : y * n + j < h * n := by
  have := Nat.mul_le_mul_right n (Nat.succ_le_of_lt hy)
  rw [Nat.succ_mul] at this
  omega

/-- A run of single-byte writes at a + 0, a + 1, … a + n − 1: the byte of its round inside, the byte before outside. -/
theorem forRange_set_hit {n a : Nat} (v : Nat → Byte) (m : Memory) {k : Nat} (hk : k < n) :
    (forRange n (fun k m => m.set (a + k) (v k)) m).get? (a + k) = some (v k) :=
  forRange_sets (q := fun m => Memory.get? m (a + k)) hk (fun y => Memory.get?_set_self y _ _)
    fun j y hj _ => Memory.get?_set_ne y _ (by omega)

theorem forRange_set_miss {n a : Nat} (v : Nat → Byte) (m : Memory) {i : Nat} (h : i < a ∨ a + n ≤ i) :
    (forRange n (fun k m => m.set (a + k) (v k)) m).get? i = m.get? i :=
  forRange_leaves (q := fun m => Memory.get? m i) fun j y hj => Memory.get?_set_ne y _ (by omega)

/-- `rows_in`: byte j of canonical row y is byte j of the file row that is y's mirror (R162). -/
theorem rowsIn_hit (S : Nat → Byte) (g : Geometry) (m : Memory) {y j : Nat} (hy : y < g.absH) (hj : j < g.rowBytes) :
    (rowsIn S g m).get? (y * g.rowBytes + j)
      = some (S (g.off + canonicalRow y g.absH g.td * g.stride + j)) := by
  refine forRange_sets (q := fun m => Memory.get? m (y * g.rowBytes + j)) (canonicalRow_lt g.td hy) (fun z => ?_)
    fun r z hr hrh => ?_
  · simp only [rowIn, canonicalRow_twice g.td hy]
    exact forRange_set_hit (fun k => S (g.off + canonicalRow y g.absH g.td * g.stride + k)) z hj
  · refine forRange_leaves (q := fun m => Memory.get? m (y * g.rowBytes + j)) fun k w hk => ?_
    refine Memory.get?_set_ne w _ (row_index_ne (fun e => ?_) hj hk)
    rw [e, canonicalRow_twice g.td hrh] at hr
    omega

/-- `rows_in` leaves every byte from h × rb on (R160). -/
theorem rowsIn_miss (S : Nat → Byte) (g : Geometry) (m : Memory) {i : Nat} (h : g.absH * g.rowBytes ≤ i) :
    (rowsIn S g m).get? i = m.get? i :=
  forRange_leaves (q := fun m => Memory.get? m i) fun r z hr =>
    forRange_leaves (q := fun m => Memory.get? m i) fun k w hk =>
      Memory.get?_set_ne w _ (by have := row_index_lt (canonicalRow_lt g.td hr) hk; omega)

theorem rowsIn_ok (S : Nat → Byte) (g : Geometry) {m : Memory} {n : Nat} (hn : g.absH * g.rowBytes ≤ n)
    (h : m.wf ∧ ∀ c ∈ m.cells, c.1 < n) :
    (rowsIn S g m).wf ∧ ∀ c ∈ (rowsIn S g m).cells, c.1 < n :=
  forRange_keeps (P := fun m : Memory => m.wf ∧ ∀ c ∈ m.cells, c.1 < n) h fun _ _ hr hz =>
    forRange_keeps (P := fun m : Memory => m.wf ∧ ∀ c ∈ m.cells, c.1 < n) hz fun _ _ hk hw =>
      ⟨Memory.set_wf _ _ hw.1,
        Memory.set_bound _ (Nat.lt_of_lt_of_le (row_index_lt (canonicalRow_lt g.td hr) hk) hn) hw.2⟩

theorem EncodePlan.rowBytes_add_pad (p : EncodePlan) : p.rowBytes + p.pad = p.stride := by
  have := (rowStrideOf_bounds p.w p.bpp).2.1
  simp only [EncodePlan.pad, EncodePlan.rowBytes, EncodePlan.stride]
  omega

/-- One file row: a pixel byte of its canonical row. -/
theorem rowOut_pixel (P : Nat → Byte) (p : EncodePlan) (m : Memory) {r k : Nat} (hk : k < p.rowBytes) :
    (rowOut P p r m).get? (54 + r * p.stride + k) = some (P (canonicalRow r p.h p.td * p.rowBytes + k)) := by
  rw [rowOut, forRange_set_miss _ _ (by omega)]
  exact forRange_set_hit (fun k => P (canonicalRow r p.h p.td * p.rowBytes + k)) m hk

/-- One file row: a padding byte. -/
theorem rowOut_pad (P : Nat → Byte) (p : EncodePlan) (m : Memory) {r k : Nat} (hk : p.rowBytes ≤ k) (hs : k < p.stride) :
    (rowOut P p r m).get? (54 + r * p.stride + k) = some 0x00#8 := by
  have h := p.rowBytes_add_pad
  have := forRange_set_hit (a := 54 + r * p.stride + p.rowBytes) (fun _ => 0x00#8)
    (forRange p.rowBytes
      (fun k m => m.set (54 + r * p.stride + k) (P (canonicalRow r p.h p.td * p.rowBytes + k))) m)
    (show k - p.rowBytes < p.pad by omega)
  rwa [show 54 + r * p.stride + p.rowBytes + (k - p.rowBytes) = 54 + r * p.stride + k by omega] at this

/-- One file row leaves the bytes outside it. -/
theorem rowOut_miss (P : Nat → Byte) (p : EncodePlan) (m : Memory) {r i : Nat}
    (h : i < 54 + r * p.stride ∨ 54 + r * p.stride + p.stride ≤ i) : (rowOut P p r m).get? i = m.get? i := by
  have := p.rowBytes_add_pad
  rw [rowOut, forRange_set_miss _ _ (by omega), forRange_set_miss _ _ (by omega)]

/-- What `rows_out` does to byte k of file row r is what that row's own round does (R184). -/
theorem rowsOut_row (P : Nat → Byte) (p : EncodePlan) (m : Memory) {r k : Nat} (v : Byte) (hr : r < p.h)
    (hk : k < p.stride) (hit : ∀ z, (rowOut P p r z).get? (54 + r * p.stride + k) = some v) :
    (rowsOut P p m).get? (54 + r * p.stride + k) = some v :=
  forRange_sets (q := fun m => Memory.get? m (54 + r * p.stride + k)) hr hit fun j z hj _ => by
    refine rowOut_miss P p z (.inl ?_)
    have := Nat.mul_le_mul_right p.stride (Nat.succ_le_of_lt hj)
    rw [Nat.succ_mul] at this
    omega

theorem rowsOut_pixel (P : Nat → Byte) (p : EncodePlan) (m : Memory) {r k : Nat} (hr : r < p.h) (hk : k < p.rowBytes) :
    (rowsOut P p m).get? (54 + r * p.stride + k) = some (P (canonicalRow r p.h p.td * p.rowBytes + k)) :=
  rowsOut_row P p m _ hr (by have := p.rowBytes_add_pad; omega) fun z => rowOut_pixel P p z hk

theorem rowsOut_pad (P : Nat → Byte) (p : EncodePlan) (m : Memory) {r k : Nat} (hr : r < p.h) (hk : p.rowBytes ≤ k)
    (hs : k < p.stride) : (rowsOut P p m).get? (54 + r * p.stride + k) = some 0x00#8 :=
  rowsOut_row P p m _ hr hs fun z => rowOut_pad P p z hk hs

/-- `rows_out` leaves the headers and every byte from file_size on (R185). -/
theorem rowsOut_miss (P : Nat → Byte) (p : EncodePlan) (m : Memory) {i : Nat} (h : i < 54 ∨ p.fileSize ≤ i) :
    (rowsOut P p m).get? i = m.get? i :=
  forRange_leaves (q := fun m => Memory.get? m i) fun r z hr => by
    refine rowOut_miss P p z ?_
    have := Nat.mul_le_mul_right p.stride (Nat.succ_le_of_lt hr)
    rw [Nat.succ_mul] at this
    simp only [EncodePlan.fileSize, EncodePlan.imageSize, Nat.mul_comm p.stride] at h
    omega

theorem rowsOut_ok (P : Nat → Byte) (p : EncodePlan) {m : Memory} {n : Nat} (hn : p.fileSize ≤ n)
    (h : m.wf ∧ ∀ c ∈ m.cells, c.1 < n) :
    (rowsOut P p m).wf ∧ ∀ c ∈ (rowsOut P p m).cells, c.1 < n :=
  forRange_keeps (P := fun m : Memory => m.wf ∧ ∀ c ∈ m.cells, c.1 < n) h fun r _ hr hz => by
    have hp := p.rowBytes_add_pad
    have hm := Nat.mul_le_mul_right p.stride (Nat.succ_le_of_lt hr)
    rw [Nat.succ_mul] at hm
    simp only [EncodePlan.fileSize, EncodePlan.imageSize, Nat.mul_comm p.stride] at hn
    exact forRange_keeps (P := fun m : Memory => m.wf ∧ ∀ c ∈ m.cells, c.1 < n)
      (forRange_keeps (P := fun m : Memory => m.wf ∧ ∀ c ∈ m.cells, c.1 < n) hz fun k _ hk hw =>
        ⟨Memory.set_wf _ _ hw.1, Memory.set_bound _ (by omega) hw.2⟩)
      fun k _ hk hw => ⟨Memory.set_wf _ _ hw.1, Memory.set_bound _ (by omega) hw.2⟩

/-- The 54 header bytes of R182 in one list. -/
def headerBytes (p : EncodePlan) : List Byte :=
  [0x42#8, 0x4D#8] ++ le32 p.fileSize ++ List.replicate 4 0x00#8 ++ le32 54 ++ le32 40 ++ le32 p.w
    ++ le32 p.heightField ++ le16 1 ++ le16 (p.bpp * 8) ++ le32 0 ++ le32 p.imageSize ++ List.replicate 16 0x00#8

theorem headerBytes_length (p : EncodePlan) : (headerBytes p).length = 54 := rfl

/-- Writing two runs one after the other is writing the joined run. -/
theorem Memory.setMany_append (m : Memory) (a : Nat) (xs ys : List Byte) :
    m.setMany a (xs ++ ys) = (m.setMany a xs).setMany (a + xs.length) ys := by
  induction xs generalizing m a with
  | nil => rfl
  | cons x xs ih =>
    simp only [List.cons_append, Memory.setMany, ih, List.length_cons]
    congr 1
    omega

/-- `emit_headers` writes the 54 bytes at DST[0 .. 54) and nothing else (R182). -/
theorem emitHeaders_eq (p : EncodePlan) (m : Memory) : emitHeaders p m = m.setMany 0 (headerBytes p) := by
  simp only [headerBytes, Memory.setMany_append, emitHeaders]
  rfl

theorem emitHeaders_get? (p : EncodePlan) (m : Memory) (i : Nat) :
    (emitHeaders p m).get? i = if i < 54 then (headerBytes p)[i]? else m.get? i := by
  rw [emitHeaders_eq, Memory.get?_setMany, headerBytes_length]
  simp

theorem emitHeaders_ok (p : EncodePlan) {m : Memory} {n : Nat} (hn : 54 ≤ n) (h : m.wf ∧ ∀ c ∈ m.cells, c.1 < n) :
    (emitHeaders p m).wf ∧ ∀ c ∈ (emitHeaders p m).cells, c.1 < n := by
  rw [emitHeaders_eq]
  exact ⟨Memory.setMany_wf _ _ h.1, Memory.setMany_bound _ (by rw [headerBytes_length]; omega) h.2⟩

end Sys2Proof.Machine
end

