-- ==== Sys2Proof/Laws/Commands.lean ====
section
/-! SUPPORT. What each instruction's meaning can answer, once per meaning: provers cite these instead of unfolding the
meanings. -/

namespace Sys2Proof.Machine

open Sys2Proof

@[simp] theorem exec_parse (s : State) : exec .parse s = .next s.runParse := rfl
@[simp] theorem exec_decode (s : State) : exec .decode s = .next s.runDecode := rfl
@[simp] theorem exec_encode (s : State) : exec .encode s = .next s.runEncode := rfl
@[simp] theorem exec_line (s : State) : exec .line s = .next s.runLine := rfl
@[simp] theorem exec_rreg (a : Word) (s : State) : exec (.rreg a) s = .next (s.answer (s.hostRegRead a)) := rfl
@[simp] theorem exec_wreg (a v : Word) (s : State) : exec (.wreg a v) s = .next (s.hostRegWrite a v) := rfl
@[simp] theorem exec_rsrc (i : Word) (s : State) : exec (.rsrc i) s = .next (s.answer (s.hostByteRead .src i)) := rfl
@[simp] theorem exec_rpix (i : Word) (s : State) : exec (.rpix i) s = .next (s.answer (s.hostByteRead .pix i)) := rfl
@[simp] theorem exec_rdst (i : Word) (s : State) : exec (.rdst i) s = .next (s.answer (s.hostByteRead .dst i)) := rfl
@[simp] theorem exec_wsrc (i : Word) (b : Byte) (s : State) :
    exec (.wsrc i b) s = .next (if i.toNat < s.cap .src then s.withSrc (s.src.set i.toNat b) else s) := rfl
@[simp] theorem exec_wpix (i : Word) (b : Byte) (s : State) :
    exec (.wpix i b) s = .next (if i.toNat < s.cap .pix then s.withPix (s.pix.set i.toNat b) else s) := rfl
@[simp] theorem exec_wdst (i : Word) (b : Byte) (s : State) : exec (.wdst i b) s = .next s := rfl

/-- A command that answers `next` answers the state it runs to. -/
theorem exec_cmdInstr (c : Command) (s : State) : exec (cmdInstr c) s = .next (s.runCommand c) := by
  cases c <;> rfl

theorem next_inj {s t : State} (h : (Host.Outcome.next s : Host.Outcome State Fault Refusal) = .next t) : s = t := by
  injection h

/-- PARSE: the error of `parse`, or the committed record (R140). -/
theorem State.runParse_cases (s : State) :
    (∃ e, s.parsed = .error e ∧ s.runParse = s.raise e) ∨
      ∃ g, s.parsed = .ok g ∧ s.runParse = (s.commitParse g).complete := by
  rw [State.runParse]
  cases h : s.parsed with
  | error e => exact .inl ⟨e, rfl, rfl⟩
  | ok g => exact .inr ⟨g, rfl, rfl⟩

/-- DECODE: the error of `parse`, or the whole effect (R160). -/
theorem State.runDecode_cases (s : State) :
    (∃ e, s.parsed = .error e ∧ s.runDecode = s.raise e) ∨
      ∃ g, s.parsed = .ok g ∧
        s.runDecode = (((s.commitParse g).commitImage g).withPix (rowsIn (s.byteAt .src) g s.pix)).complete := by
  rw [State.runDecode]
  cases h : s.parsed with
  | error e => exact .inl ⟨e, rfl, rfl⟩
  | ok g => exact .inr ⟨g, rfl, rfl⟩

/-- `encode_check`: InvalidImage, Capacity, or the plan with every check passed (R181). -/
theorem State.encodeCheck_cases (s : State) :
    ((s.imgW ≤ 0 ∨ s.imgH ≤ 0) ∧ s.encodeCheck = .error .invalidImage) ∨
      (0 < s.imgW ∧ 0 < s.imgH ∧
        (s.cap .pix < s.encodePlan.w * s.encodePlan.h * s.encodePlan.bpp ∨ s.cap .dst < s.encodePlan.fileSize) ∧
        s.encodeCheck = .error .capacity) ∨
      (0 < s.imgW ∧ 0 < s.imgH ∧ s.encodePlan.w * s.encodePlan.h * s.encodePlan.bpp ≤ s.cap .pix ∧
        s.encodePlan.fileSize ≤ s.cap .dst ∧ s.encodeCheck = .ok s.encodePlan) := by
  rw [State.encodeCheck]
  split
  · next h => exact .inl ⟨h, rfl⟩
  · next h =>
    split
    · next h2 => exact .inr (.inl ⟨by omega, by omega, h2, rfl⟩)
    · next h2 => exact .inr (.inr ⟨by omega, by omega, by omega, by omega, rfl⟩)

/-- What a successful ENCODE leaves (R180). -/
def State.encoded (s : State) (p : EncodePlan) : State :=
  ({ s.withDst (rowsOut (s.byteAt .pix) p (emitHeaders p s.dst)) with
      dstLen := BitVec.ofNat 32 p.fileSize
      rowStride := BitVec.ofNat 32 p.stride }).complete

/-- ENCODE: the error of its checks, or the whole effect (R180). -/
theorem State.runEncode_cases (s : State) :
    (∃ e, (e = .invalidImage ∨ e = .capacity) ∧ s.encodeCheck = .error e ∧ s.runEncode = s.raise e) ∨
      (s.encodeCheck = .ok s.encodePlan ∧ 0 < s.imgW ∧ 0 < s.imgH ∧
        s.encodePlan.w * s.encodePlan.h * s.encodePlan.bpp ≤ s.cap .pix ∧ s.encodePlan.fileSize ≤ s.cap .dst ∧
        s.runEncode = s.encoded s.encodePlan) := by
  rw [State.runEncode]
  rcases s.encodeCheck_cases with ⟨-, h⟩ | ⟨-, -, -, h⟩ | ⟨hw, hh, hp, hd, h⟩ <;> rw [h]
  · exact .inl ⟨_, .inl rfl, rfl, rfl⟩
  · exact .inl ⟨_, .inr rfl, rfl, rfl⟩
  · exact .inr ⟨rfl, hw, hh, hp, hd, rfl⟩

/-- LINE: Capacity, or the loop's effect on PIX (R200). -/
theorem State.runLine_cases (s : State) :
    (s.lineTooBig ∧ s.runLine = s.raise .capacity) ∨
      (¬ s.lineTooBig ∧
        s.runLine = (s.withPix (s.lineSetup.loop s.lineSetup.count s.lineSetup.start s.pix)).complete) := by
  rw [State.runLine]
  split
  · next h => exact .inl ⟨h, rfl⟩
  · next h => exact .inr ⟨h, rfl⟩

/-- Every word of CMD: a command's own run, or IllegalCommand with nothing executed (R22, R249). -/
theorem State.writeCmd_cases (s : State) (w : Word) :
    (∃ c, decodeCmd w = .ok c ∧ s.writeCmd w = s.runCommand c) ∨
      (decodeCmd w = .error .illegalCommand ∧ s.writeCmd w = s.raise .illegalCommand) := by
  have h : (∃ c, decodeCmd w = .ok c) ∨ decodeCmd w = .error .illegalCommand := by
    rw [decodeCmd]
    repeat' split
    all_goals first
      | exact .inr rfl
      | exact .inl ⟨_, rfl⟩
  rw [State.writeCmd]
  rcases h with ⟨c, h⟩ | h <;> rw [h]
  · exact .inl ⟨c, rfl, rfl⟩
  · exact .inr ⟨rfl, rfl⟩

end Sys2Proof.Machine
end

