-- ==== Sys2Proof/Laws/PerInstr.lean ====
section
/-! SUPPORT. Facts about every instruction as syntax, one lemma per constructor: the key of its encoded transaction is
the number spec/opcode_table.json gives its row (R106), and a command's word is its row's word (R91). -/

namespace Sys2Proof.Laws.EncodingKey

open Sys2Proof

/-- The transaction's key and, for a command, the word written to CMD, as the opcode table numbers them. -/
def Statement : Instr → Prop
  | .parse => encode .parse = ⟨0#2, true, 0#32, 0x00000001#32⟩
  | .decode => encode .decode = ⟨0#2, true, 0#32, 0x00000002#32⟩
  | .encode => encode .encode = ⟨0#2, true, 0#32, 0x00000003#32⟩
  | .line => encode .line = ⟨0#2, true, 0#32, 0x00000004#32⟩
  | .rreg a => opKey (encode (.rreg a)) = 0#3 ∧ (encode (.rreg a)).addr = a
  | .wreg a v => opKey (encode (.wreg a v)) = 1#3 ∧ (encode (.wreg a v)).addr = a ∧ (encode (.wreg a v)).wdata = v
  | .rsrc i => opKey (encode (.rsrc i)) = 2#3 ∧ (encode (.rsrc i)).addr = i
  | .wsrc i b => opKey (encode (.wsrc i b)) = 3#3 ∧ (encode (.wsrc i b)).addr = i
  | .rpix i => opKey (encode (.rpix i)) = 4#3 ∧ (encode (.rpix i)).addr = i
  | .wpix i b => opKey (encode (.wpix i b)) = 5#3 ∧ (encode (.wpix i b)).addr = i
  | .rdst i => opKey (encode (.rdst i)) = 6#3 ∧ (encode (.rdst i)).addr = i
  | .wdst i b => opKey (encode (.wdst i b)) = 7#3 ∧ (encode (.wdst i b)).addr = i

theorem parse : Statement .parse := rfl
theorem decode : Statement .decode := rfl
theorem encode : Statement .encode := rfl
theorem line : Statement .line := rfl
theorem rreg (a : Word) : Statement (.rreg a) :=
  ⟨show (0#2 ++ BitVec.ofBool false : BitVec 3) = 0#3 by decide, rfl⟩
theorem wreg (a v : Word) : Statement (.wreg a v) :=
  ⟨show (0#2 ++ BitVec.ofBool true : BitVec 3) = 1#3 by decide, rfl, rfl⟩
theorem rsrc (i : Word) : Statement (.rsrc i) :=
  ⟨show (1#2 ++ BitVec.ofBool false : BitVec 3) = 2#3 by decide, rfl⟩
theorem wsrc (i : Word) (b : Byte) : Statement (.wsrc i b) :=
  ⟨show (1#2 ++ BitVec.ofBool true : BitVec 3) = 3#3 by decide, rfl⟩
theorem rpix (i : Word) : Statement (.rpix i) :=
  ⟨show (2#2 ++ BitVec.ofBool false : BitVec 3) = 4#3 by decide, rfl⟩
theorem wpix (i : Word) (b : Byte) : Statement (.wpix i b) :=
  ⟨show (2#2 ++ BitVec.ofBool true : BitVec 3) = 5#3 by decide, rfl⟩
theorem rdst (i : Word) : Statement (.rdst i) :=
  ⟨show (3#2 ++ BitVec.ofBool false : BitVec 3) = 6#3 by decide, rfl⟩
theorem wdst (i : Word) (b : Byte) : Statement (.wdst i b) :=
  ⟨show (3#2 ++ BitVec.ofBool true : BitVec 3) = 7#3 by decide, rfl⟩

end Sys2Proof.Laws.EncodingKey
end

