-- ==== Sys2Proof/Laws/Step.lean ====
section
/-! SUPPORT. What one step does, by the oldest pending event, and how a run takes its first step. -/

namespace Sys2Proof.Machine

open Sys2Proof

/-- With nothing pending a step changes nothing. -/
theorem step_idle {s : State} (h : s.inbox = []) : step s = .next s := by
  simp only [step, h]

/-- A pending host operation is decoded and executed on the state without it. -/
theorem step_op {s : State} {t : HostOp} {rest : List HostEvent} (h : s.inbox = .op t :: rest) :
    step s = exec (decodeOp t) s.pop := by
  simp only [step, h]

/-- A pending reset event resets. -/
theorem step_reset {s : State} {rest : List HostEvent} (h : s.inbox = .reset :: rest) :
    step s = .next s.pop.takeReset := by
  simp only [step, h]

/-- No step is a run of no steps. -/
theorem run_zero (s : State) : core.run 0 s = .next s := rfl

/-- A run goes on from what its first step answers. -/
theorem run_succ {s t : State} (h : step s = .next t) (n : Nat) : core.run (n + 1) s = core.run n t := by
  have run_next : ∀ (M : Host.Core) (a b : M.State), M.step a = .next b → M.run (n + 1) a = M.run n b := by
    intro M a b hab
    simp only [Host.Core.run, hab]
  exact run_next core s t h

end Sys2Proof.Machine
end

