-- ==== Sys2Proof/Tests/Slice0.lean ====
section
/-! SUPPORT. Small tests, their expected results from spec/95_test_vectors.md and the rules' worked examples, and a witness
for the hypotheses of every statement. -/

namespace Sys2Proof.Tests

open Sys2Proof Sys2Proof.Machine

/-- The reset state of the vectors: SRC_CAP = PIX_CAP = 4096, DST_CAP = 4150 (95_test_vectors.md). -/
def idle : State := { State.reset with capSrc := 4096#32, capPix := 4096#32, capDst := 4150#32 }

/-- Written bytes from index 0 on. -/
def bytes (l : List Byte) : Memory := Memory.empty.setMany 0 l

/-- The state with the file `l` loaded, as LOADSRC leaves it. -/
def loaded (l : List Byte) : State := { idle with src := bytes l, srcLen := BitVec.ofNat 32 l.length }

/-- The state after one instruction that completes. -/
def after (i : Instr) (s : State) : State :=
  match exec i s with
  | .next t => t
  | .fault _ => s
  | .refused _ => s

/-- The state after one step that completes. -/
def stepped (s : State) : State :=
  match step s with
  | .next t => t
  | .fault _ => s
  | .refused _ => s

/-- The first 34 bytes of the file header and DIB header with the given fields, little-endian. -/
def header (off dib w h : BitVec 32) (planes bits : BitVec 16) (compr : BitVec 32) : List Byte :=
  [0x42#8, 0x4D#8, 0x46#8, 0#8, 0#8, 0#8, 0#8, 0#8, 0#8, 0#8] ++ wordBytes off ++ wordBytes dib ++ wordBytes w
    ++ wordBytes h ++ [planes.extractLsb 7 0, planes.extractLsb 15 8, bits.extractLsb 7 0, bits.extractLsb 15 8]
    ++ wordBytes compr

/-- The 20 bytes of the DIB header after compression, with image size 16. -/
def tail20 : List Byte := [0x10#8] ++ List.replicate 19 0#8

/-- The pixel data of BASE (V10): two rows of stride 8. -/
def basePixels : List Byte :=
  [0x11#8, 0x12#8, 0x13#8, 0x21#8, 0x22#8, 0x23#8, 0#8, 0#8, 0x31#8, 0x32#8, 0x33#8, 0x41#8, 0x42#8, 0x43#8, 0#8, 0#8]

/-- BASE of V10: 2 × 2, 24-bit, bottom-up, 70 bytes. -/
def base : List Byte := header 54#32 40#32 2#32 2#32 1#16 24#16 0#32 ++ tail20 ++ basePixels

/-- BASE with another header, its pixels kept. -/
def variant (off dib w h : BitVec 32) (planes bits : BitVec 16) (compr : BitVec 32) : List Byte :=
  header off dib w h planes bits compr ++ tail20 ++ basePixels

/-- The 58-byte file of V32: 1 × 1, 24-bit, pixel 09 08 07. -/
def tiny : List Byte :=
  [0x42#8, 0x4D#8, 0x3A#8, 0#8, 0#8, 0#8, 0#8, 0#8, 0#8, 0#8, 0x36#8, 0#8, 0#8, 0#8, 0x28#8, 0#8, 0#8, 0#8, 0x01#8, 0#8,
    0#8, 0#8, 0x01#8, 0#8, 0#8, 0#8, 0x01#8, 0#8, 0x18#8, 0#8]
  ++ [0#8, 0#8, 0#8, 0#8, 0x04#8, 0#8, 0#8, 0#8] ++ List.replicate 16 0#8 ++ [0x09#8, 0x08#8, 0x07#8, 0#8]

/-- An Image made by direct synthesis (R226): the registers and the first bytes of PIX. -/
def image (w h fmt : Word) (l : List Byte) : State :=
  { idle with imgWidth := w, imgHeight := h, imgFmt := fmt, pix := bytes l }

/-- The same with the line operands. -/
def lined (s : State) (x0 y0 x1 y1 : Word) : State := { s with lineX0 := x0, lineY0 := y0, lineX1 := x1, lineY1 := y1 }

/-- The first `n` bytes of a buffer. -/
def firstBytes (s : State) (b : Buf) (n : Nat) : List Byte := (List.range n).map (s.byteAt b)

/-- A 2 × 2 image of 4 bytes per pixel, all AA (V48). -/
def alpha : State := image 2#32 2#32 2#32 (List.replicate 16 0xAA#8)

/-! ### Well-formedness, encodings -/

theorem test_ill_formed_command_word : ¬ WellFormed (.wreg 0#32 1#32) := by decide
theorem test_ill_formed_command_word_last : ¬ WellFormed (.wreg 0#32 4#32) := by decide
theorem test_well_formed_illegal_word : WellFormed (.wreg 0#32 5#32) := by decide
theorem test_well_formed_other_register : WellFormed (.wreg 32#32 1#32) := by decide

-- R91: the command words; V51: words that are ILLEGAL.
theorem test_decode_parse : decodeCmd 0x00000001#32 = .ok .parse := by rfl
theorem test_decode_decode : decodeCmd 0x00000002#32 = .ok .decode := by rfl
theorem test_decode_encode : decodeCmd 0x00000003#32 = .ok .encode := by rfl
theorem test_decode_line : decodeCmd 0x00000004#32 = .ok .line := by rfl
theorem test_decode_zero : decodeCmd 0x00000000#32 = .error .illegalCommand := by rfl
theorem test_decode_bit4 : decodeCmd 0x00000012#32 = .error .illegalCommand := by rfl
theorem test_decode_bit31 : decodeCmd 0x80000001#32 = .error .illegalCommand := by rfl
-- R106, R107: one transaction of each host operation, written out.
theorem test_op_rreg : decodeOp ⟨0#2, false, 1#32, 9#32⟩ = .rreg 1#32 := by decide
theorem test_op_wreg : decodeOp ⟨0#2, true, 2#32, 0x66#32⟩ = .wreg 2#32 102#32 := by decide
theorem test_op_cmd : decodeOp ⟨0#2, true, 0#32, 2#32⟩ = .decode := by decide
theorem test_op_rsrc : decodeOp ⟨1#2, false, 7#32, 0#32⟩ = .rsrc 7#32 := by decide
theorem test_op_wsrc : decodeOp ⟨1#2, true, 7#32, 0xFFFFFF42#32⟩ = .wsrc 7#32 0x42#8 := by decide
theorem test_op_rpix : decodeOp ⟨2#2, false, 7#32, 0#32⟩ = .rpix 7#32 := by decide
theorem test_op_wpix : decodeOp ⟨2#2, true, 0#32, 0x55#32⟩ = .wpix 0#32 0x55#8 := by decide
theorem test_op_rdst : decodeOp ⟨3#2, false, 7#32, 0#32⟩ = .rdst 7#32 := by decide
theorem test_op_wdst : decodeOp ⟨3#2, true, 7#32, 1#32⟩ = .wdst 7#32 1#8 := by decide
-- The opcode table's match values.
theorem test_table_commands :
    decodeTableWord 32 1 = some .parse ∧ decodeTableWord 32 2 = some .decode ∧ decodeTableWord 32 3 = some .encode ∧
      decodeTableWord 32 4 = some .line := by decide
theorem test_table_host_ops :
    decodeTableWord 8 0 = some (.rreg 0#32) ∧ decodeTableWord 8 1 = some (.wreg 0#32 0#32) ∧
      decodeTableWord 8 2 = some (.rsrc 0#32) ∧ decodeTableWord 8 3 = some (.wsrc 0#32 0#8) ∧
      decodeTableWord 8 4 = some (.rpix 0#32) ∧ decodeTableWord 8 5 = some (.wpix 0#32 0#8) ∧
      decodeTableWord 8 6 = some (.rdst 0#32) ∧ decodeTableWord 8 7 = some (.wdst 0#32 0#8) := by decide

/-! ### The step from reset (R47, V49b, V51) -/

theorem test_step_idle : step State.reset = .next State.reset := by rfl
theorem test_step_parse : step (State.reset.withFetchWord 32 1) = .next { State.reset with status := 0x16#32 } := by rfl
theorem test_step_decode : step (State.reset.withFetchWord 32 2) = .next { State.reset with status := 0x16#32 } := by rfl
theorem test_step_encode : step (State.reset.withFetchWord 32 3) = .next { State.reset with status := 0x86#32 } := by rfl
theorem test_step_line : step (State.reset.withFetchWord 32 4) = .next { State.reset with status := 0x02#32 } := by rfl
theorem test_step_illegal : step (State.reset.withFetchWord 32 0x12) = .next { State.reset with status := 0xA6#32 } := by rfl
theorem test_step_wreg_zero : step (State.reset.withFetchWord 8 1) = .next { State.reset with status := 0xA6#32 } := by rfl
theorem test_step_reset_event :
    stepped { loaded tiny with inbox := [.reset] } = { idle with resets := 1 } := by decide

/-! ### Registers (V50) -/

theorem test_srclen_saturates : (after (.wreg 2#32 0xFFFFFFFF#32) idle).srcLen = 0x1000#32 := by decide
theorem test_srclen_at_capacity : (after (.wreg 2#32 4096#32) idle).srcLen = 0x1000#32 := by decide
theorem test_imgfmt_keeps_two_bits : (after (.wreg 5#32 0xFFFFFFFF#32) idle).imgFmt = 3#32 := by decide
theorem test_status_write_ignored : after (.wreg 1#32 0xFFFFFFFF#32) idle = idle := by decide
theorem test_reserved_write_ignored : after (.wreg 25#32 5#32) idle = idle := by decide
theorem test_high_address_is_reserved : after (.wreg 0x22#32 5#32) idle = idle := by decide
theorem test_read_cap_dst : (after (.rreg 19#32) idle).rdata = 0x1036#32 := by decide
theorem test_read_reserved : (after (.rreg 20#32) { idle with rdata := 7#32 }).rdata = 0#32 := by decide

/-! ### Buffers (V50) -/

theorem test_wsrc_out_of_range : after (.wsrc 4096#32 0xAA#8) idle = idle := by decide
theorem test_wsrc_last_byte : (after (.wsrc 4095#32 0xAA#8) idle).src.get? 4095 = some 0xAA#8 := by decide
theorem test_wpix_out_of_range : after (.wpix 4096#32 0xAA#8) idle = idle := by decide
theorem test_wpix_last_byte : (after (.wpix 4095#32 0xAA#8) idle).pix.get? 4095 = some 0xAA#8 := by decide
theorem test_rsrc_out_of_range : (after (.rsrc 4096#32) { idle with rdata := 7#32 }).rdata = 0#32 := by decide
theorem test_rsrc_beyond_srclen : (after (.rsrc 1#32) { idle with src := bytes [1#8, 0xFE#8] }).rdata = 0xFE#32 := by decide
theorem test_rpix : (after (.rpix 1#32) { idle with pix := bytes [1#8, 0xFE#8] }).rdata = 0xFE#32 := by decide
theorem test_rdst : (after (.rdst 1#32) { idle with dst := bytes [1#8, 0xFE#8] }).rdata = 0xFE#32 := by decide
theorem test_rdst_out_of_range : (after (.rdst 4150#32) { idle with rdata := 7#32 }).rdata = 0#32 := by decide
theorem test_wdst_ignored : after (.wdst 0#32 1#8) idle = idle := by decide

/-! ### PARSE (V10) -/

theorem test_parse_base : (after .parse (loaded base)).status = 2#32 ∧ (after .parse (loaded base)).rowStride = 8#32 := by
  decide +kernel
theorem test_parse_magic : (after .parse (loaded (0x62#8 :: 0x6D#8 :: base.drop 2))).status = 0x26#32 := by decide +kernel
theorem test_parse_short_header : (after .parse (loaded (base.take 53))).status = 0x16#32 := by decide +kernel
theorem test_parse_small_dib : (after .parse (loaded ((variant 54#32 12#32 2#32 2#32 1#16 24#16 0#32).take 26))).status = 0x36#32 := by
  decide +kernel
theorem test_parse_small_dib_short :
    (after .parse (loaded ((variant 54#32 12#32 2#32 2#32 1#16 24#16 0#32).take 25))).status = 0x16#32 := by decide +kernel
theorem test_parse_compression : (after .parse (loaded (variant 54#32 40#32 2#32 2#32 1#16 8#16 1#32))).status = 0x46#32 := by
  decide +kernel
theorem test_parse_bit_depth : (after .parse (loaded (variant 54#32 40#32 2#32 2#32 0#16 8#16 0#32))).status = 0x56#32 := by
  decide +kernel
theorem test_parse_planes : (after .parse (loaded (variant 54#32 40#32 0#32 2#32 0#16 24#16 0#32))).status = 0x66#32 := by
  decide +kernel
theorem test_parse_width_negative :
    (after .parse (loaded (variant 54#32 40#32 0xFFFFFFFF#32 2#32 1#16 24#16 0#32))).status = 0x76#32 := by decide +kernel
theorem test_parse_height_min :
    (after .parse (loaded (variant 54#32 40#32 2#32 0x80000000#32 1#16 24#16 0#32))).status = 0x16#32 := by decide +kernel
theorem test_parse_offset_53 :
    (after .parse (loaded (variant 53#32 40#32 2#32 2#32 1#16 24#16 0#32))).pOffset = 53#32 := by decide +kernel
theorem test_parse_offset_55 :
    (after .parse (loaded (variant 55#32 40#32 2#32 2#32 1#16 24#16 0#32))).status = 0x16#32 := by decide +kernel
theorem test_row_stride_exact : rowStrideOf 2147483647 3 = 6442450944 ∧ rowStrideOf 5 3 = 16 := by decide

/-! ### DECODE (V20, V21, V24) -/

theorem test_decode_bottom_up :
    firstBytes (after .decode (loaded base)) .pix 12
      = [0x31#8, 0x32#8, 0x33#8, 0x41#8, 0x42#8, 0x43#8, 0x11#8, 0x12#8, 0x13#8, 0x21#8, 0x22#8, 0x23#8] := by
  decide +kernel
theorem test_decode_top_down_keeps_order :
    firstBytes (after .decode (loaded (variant 54#32 40#32 2#32 0xFFFFFFFE#32 1#16 24#16 0#32))) .pix 12
      = [0x11#8, 0x12#8, 0x13#8, 0x21#8, 0x22#8, 0x23#8, 0x31#8, 0x32#8, 0x33#8, 0x41#8, 0x42#8, 0x43#8] := by
  decide +kernel
theorem test_decode_offset_zero :
    firstBytes (after .decode (loaded (variant 0#32 40#32 1#32 1#32 1#16 24#16 0#32))) .pix 3 = [0x42#8, 0x4D#8, 0x46#8] := by
  decide +kernel

/-! ### ENCODE (V32, V33, V34) -/

-- R103 and R102: the worked examples of field emission and assembly.
theorem test_le32_examples :
    le32 102 = [0x66#8, 0x00#8, 0x00#8, 0x00#8] ∧ le32 (-4) = [0xFC#8, 0xFF#8, 0xFF#8, 0xFF#8] ∧
      le16 24 = [0x18#8, 0x00#8] := by decide
theorem test_i32le_examples :
    i32le (fun k => [0xFC#8, 0xFF#8, 0xFF#8, 0xFF#8].getD k 0#8) 0 = -4 ∧
      i32le (fun k => [0x00#8, 0x00#8, 0x00#8, 0x80#8].getD k 0#8) 0 = -2147483648 := by decide
theorem test_encode_tiny : firstBytes (after .encode (image 1#32 1#32 0#32 [9#8, 8#8, 7#8])) .dst 58 = tiny := by
  decide +kernel
theorem test_encode_top_down_height :
    firstBytes (after .encode (image 1#32 1#32 1#32 [9#8, 8#8, 7#8])) .dst 26
      = tiny.take 22 ++ [0xFF#8, 0xFF#8, 0xFF#8, 0xFF#8] := by decide +kernel
theorem test_encode_negative_height : (after .encode (image 4#32 0xFFFFFFFF#32 0#32 [])).status = 0x86#32 := by decide +kernel
theorem test_encode_capacity :
    (after .encode { image 7#32 12#32 0#32 [] with capPix := 256#32, capDst := 310#32 }).status = 0x96#32 := by decide +kernel

/-! ### LINE (V40, V44, V47b, V48) -/

/-- The points of a line in order. -/
def points (w h : Int) (bpp : Nat) (x0 y0 x1 y1 : Int) : List (Int × Int × Int) :=
  ((lineSetup w h bpp x0 y0 x1 y1).trace (lineSetup w h bpp x0 y0 x1 y1).count
    (lineSetup w h bpp x0 y0 x1 y1).start).map fun p => (p.x, p.y, p.err)

theorem test_trace_V40 : points 4 4 3 0 0 3 1 = [(0, 0, 2), (1, 0, 1), (2, 1, 3), (3, 1, 2)] := by decide +kernel
theorem test_trace_V42 : points 4 4 3 3 2 0 0 = [(3, 2, 1), (2, 1, 2), (1, 1, 0), (0, 0, 1)] := by decide +kernel
theorem test_trace_V47b :
    points 4 4 3 0 0 6 2 = [(0, 0, 4), (1, 0, 2), (2, 1, 6), (3, 1, 4), (4, 1, 2), (5, 2, 6), (6, 2, 4)] := by
  decide +kernel
theorem test_line_alpha_V48 :
    firstBytes (after .line (lined alpha 0#32 1#32 1#32 0#32)) .pix 16
      = [0xAA#8, 0xAA#8, 0xAA#8, 0xAA#8, 0#8, 0#8, 0#8, 0xFF#8, 0#8, 0#8, 0#8, 0xFF#8, 0xAA#8, 0xAA#8, 0xAA#8, 0xAA#8] := by
  decide +kernel
theorem test_line_capacity :
    (after .line { image 10#32 10#32 0#32 [] with capPix := 256#32 }).status = 0x96#32 := by decide +kernel
theorem test_line_window_left_out :
    (after .line (lined alpha 0xFFFFFFFE#32 0#32 0xFFFFFFFF#32 0#32)).pix = alpha.pix := by decide +kernel

/-! ### Witnesses: a concrete state and operands for the hypotheses of every statement, at the ranges' ends -/

/-- The bytes of SRC. -/
abbrev srcOf (s : State) : Nat → Byte := s.byteAt .src

/-- A state with a pending DECODE of the 58-byte file. -/
def pendingDecode : State := { loaded tiny with inbox := [.op (commandOp 2#32)] }

/-- The top-down twin of BASE (V21). -/
def twin : List Byte :=
  header 54#32 40#32 2#32 0xFFFFFFFE#32 1#16 24#16 0#32 ++ tail20 ++ basePixels.drop 8 ++ basePixels.take 8

/-- BASE with its padding bytes and its trailing bytes changed (V10.31, V22). -/
def paddedBase : List Byte :=
  base.take 60 ++ [0xAA#8, 0xBB#8] ++ basePixels.drop 8 ++ [0xEE#8, 0xEE#8]

/-- A 1 × 1 image of 3 bytes. -/
def pixel : State := image 1#32 1#32 0#32 [9#8, 8#8, 7#8]

theorem witness_StepRunsDecodedOperation : pendingDecode.inbox = .op (commandOp 2#32) :: [] := by rfl

theorem witness_IdleStepAndResetEvent :
    idle.inbox = [] ∧ ({ idle with inbox := [.reset] } : State).inbox = .reset :: [] := by decide

theorem witness_StepKeepsInvariant :
    StateInv pendingDecode ∧ step pendingDecode = .next (stepped pendingDecode) := ⟨by decide +kernel, rfl⟩

theorem witness_CapacitiesNeverChange :
    step pendingDecode = .next (stepped pendingDecode) ∧ 17 ≤ (17#32 : Word).toNat ∧ (19#32 : Word).toNat ≤ 19 :=
  ⟨rfl, by decide, by decide⟩

theorem witness_DecodeInvertsEncode :
    WellFormed (.wreg 0#32 0#32) ∧ WellFormed (.wreg 0#32 5#32) ∧ WellFormed (.wreg 1#32 1#32) ∧ WellFormed .line ∧
      WellFormed (.wsrc 0xFFFFFFFF#32 0xFF#8) := by decide

theorem witness_RegisterReadsAndWrites :
    20 ≤ (20#32 : Word).toNat ∧ 20 ≤ (0xFFFFFFFF#32 : Word).toNat ∧ 10 ≤ (10#32 : Word).toNat ∧
      (0x1000#32 : Word).toNat ≤ idle.capSrc.toNat ∧ ¬ (0x1001#32 : Word).toNat ≤ idle.capSrc.toNat ∧
      decodeCmd 4#32 = .ok .line ∧ decodeCmd 5#32 = .error .illegalCommand :=
  ⟨by decide, by decide, by decide, by decide, by decide, by rfl, by rfl⟩

theorem witness_CmdWriteRunsCommand :
    0x00000004#32 = cmdWord .line ∧ ∀ c : Command, 0x00000005#32 ≠ cmdWord c :=
  ⟨by decide, fun c => by cases c <;> decide⟩

theorem witness_BufferWrites :
    (4095#32 : Word).toNat < idle.capSrc.toNat ∧ idle.capSrc.toNat ≤ (4096#32 : Word).toNat ∧
      (4095#32 : Word).toNat < idle.capPix.toNat ∧ idle.capPix.toNat ≤ (4096#32 : Word).toNat := by decide

theorem witness_BufferReads :
    (4149#32 : Word).toNat < idle.capDst.toNat ∧ ¬ (4150#32 : Word).toNat < idle.capDst.toNat := by decide

/-- The hypotheses, at written buffers, and at the two ends of the index range. -/
theorem witness_HostWritesCommute :
    (loaded tiny).src.wf ∧ alpha.pix.wf ∧ idle.src.wf ∧ idle.pix.wf ∧ (5#32 : Word) ≠ 4#32 ∧
      (0#32 : Word) ≠ 0xFFFFFFFF#32 := by decide

theorem witness_StatusWrittenByCommandsOnly :
    exec .parse idle = .next (after .parse idle) ∧ (after .parse idle).status ≠ idle.status := ⟨rfl, by decide⟩

theorem witness_WhoWritesTheBuffers :
    (after (.wsrc 0#32 1#8) idle).src ≠ idle.src ∧ (after (.wpix 0#32 1#8) idle).pix ≠ idle.pix ∧
      (after .decode (loaded tiny)).pix ≠ (loaded tiny).pix ∧ (after .encode pixel).dst ≠ pixel.dst ∧
      (after .line (lined alpha 0#32 0#32 0#32 0#32)).pix ≠ alpha.pix := by decide +kernel

theorem witness_LoadSrcLoadsTheFile :
    idle.inbox = [] ∧ ([1#8, 2#8, 3#8] : List Byte).length ≤ ({ idle with capSrc := 3#32 } : State).capSrc.toNat ∧
      ([] : List Byte).length ≤ idle.capSrc.toNat := by decide

theorem witness_FetchedTableWordRuns :
    decodeTableWord 32 4 = some .line ∧ decodeTableWord 8 7 = some (.wdst 0#32 0#8) := by decide

theorem witness_DoneStaysSet :
    exec (cmdInstr .parse) idle = .next (after .parse idle) ∧ (after .parse idle).status.getLsbD 1 = true ∧
      exec (.wreg 3#32 1#32) (after .parse idle) = .next (after (.wreg 3#32 1#32) (after .parse idle)) :=
  ⟨rfl, by decide, rfl⟩

theorem witness_CopyBackCopiesTheFile :
    (after .encode pixel).inbox = [] ∧ (after .encode pixel).dstLen.toNat = 58 ∧
      58 ≤ ({ after .encode pixel with capSrc := 58#32 } : State).capSrc.toNat ∧
      58 ≤ ({ after .encode pixel with capDst := 58#32 } : State).capDst.toNat ∧
      idle.dstLen.toNat ≤ idle.capSrc.toNat ∧ idle.dstLen.toNat ≤ idle.capDst.toNat ∧
      0 < (after .encode pixel).dstLen.toNat ∧ 57 < (after .encode pixel).dstLen.toNat := by decide +kernel

/-- Each error kind of `parse`, at a file that raises it. -/
theorem witness_WhenParseRaisesEachError :
    parse (srcOf idle) 13 = .error .truncated ∧
      parse (srcOf (loaded (0x58#8 :: base.drop 1))) 14 = .error .notABmp ∧
      parse (srcOf (loaded base)) 17 = .error .truncated ∧
      parse (srcOf (loaded (variant 54#32 0#32 2#32 2#32 1#16 24#16 0#32))) 18 = .error .unsupportedHeader ∧
      parse (srcOf (loaded (variant 54#32 39#32 2#32 2#32 1#16 24#16 0#32))) 53 = .error .unsupportedHeader ∧
      parse (srcOf (loaded (variant 54#32 40#32 2#32 2#32 1#16 24#16 256#32))) 54 = .error .unsupportedCompression ∧
      parse (srcOf (loaded (variant 54#32 40#32 2#32 2#32 1#16 16#16 0#32))) 54 = .error .unsupportedBitDepth ∧
      parse (srcOf (loaded (variant 54#32 40#32 2#32 2#32 2#16 24#16 0#32))) 54 = .error .unsupportedPlanes ∧
      parse (srcOf (loaded (variant 54#32 40#32 2#32 0#32 1#16 24#16 0#32))) 54 = .error .invalidDimensions ∧
      parse (srcOf (loaded base)) 69 = .error .truncated :=
  ⟨by rfl, by rfl, by rfl, by rfl, by rfl, by rfl, by rfl, by rfl, by rfl, by rfl⟩

theorem witness_CommandFrames : exec (cmdInstr .line) alpha = .next (after .line alpha) := rfl

theorem witness_RowStrideIsLeastMultiple :
    (1 ≤ 1 ∧ (3 = 3 ∨ 3 = 4)) ∧ 8 % 4 = 0 ∧ 1 * 3 ≤ 8 ∧ rowStrideOf 1 3 = 4 ∧ rowStrideOf 1 4 = 4 := by decide

theorem witness_CanonicalRowIsItsOwnInverse : 0 < 1 ∧ 3 < 4 ∧ canonicalRow 3 4 false = 0 ∧ canonicalRow 0 1 false = 0 := by decide

theorem witness_FieldsRoundTrip :
    65535 < 2 ^ 16 ∧ 4294967295 < 2 ^ 32 ∧ (-2 ^ 31 : Int) ≤ -2147483648 ∧ (2147483647 : Int) < 2 ^ 31 ∧
      (4294967295 : Int) < 2 ^ 32 := by decide

theorem witness_ParseReadsOnlyHeaderBytes :
    ∀ i, i < 70 → (i < 2 ∨ (10 ≤ i ∧ i < 34)) → srcOf (loaded base) i = srcOf (loaded paddedBase) i := by decide +kernel

theorem witness_GeometryFacts :
    58 < 2 ^ 32 ∧ parse (srcOf (loaded tiny)) 58 = .ok (geometryOf (srcOf (loaded tiny))) := ⟨by decide, by rfl⟩

theorem witness_ParseCommand_DecodeCommand :
    parse (srcOf (loaded tiny)) (loaded tiny).srcLen.toNat = .ok (geometryOf (srcOf (loaded tiny))) ∧
      parse (srcOf idle) idle.srcLen.toNat = .error .truncated ∧ StateInv (loaded tiny) :=
  ⟨by rfl, by rfl, by decide +kernel⟩

theorem witness_RowOrderFlip :
    let g := geometryOf (srcOf (loaded base))
    let k := geometryOf (srcOf (loaded twin))
    parse (srcOf (loaded base)) (loaded base).srcLen.toNat = .ok g ∧
      parse (srcOf (loaded twin)) (loaded twin).srcLen.toNat = .ok k ∧
      g.width = k.width ∧ g.bitcnt = k.bitcnt ∧ g.absH = k.absH ∧ 0 < g.height ∧ k.height < 0 ∧
      ∀ r, r < g.absH → ∀ j, j < g.rowBytes →
        (loaded base).fileByte g r j = (loaded twin).fileByte k (g.absH - 1 - r) j :=
  ⟨by rfl, by rfl, by decide +kernel, by decide +kernel, by decide +kernel, by decide +kernel, by decide +kernel,
    by decide +kernel⟩

theorem witness_OnlyPixelBytesReachTheImage :
    let g := geometryOf (srcOf (loaded base))
    let k := geometryOf (srcOf (loaded paddedBase))
    parse (srcOf (loaded base)) (loaded base).srcLen.toNat = .ok g ∧
      parse (srcOf (loaded paddedBase)) (loaded paddedBase).srcLen.toNat = .ok k ∧
      g.width = k.width ∧ g.height = k.height ∧ g.bitcnt = k.bitcnt ∧
      ∀ r, r < g.absH → ∀ j, j < g.rowBytes → (loaded base).fileByte g r j = (loaded paddedBase).fileByte k r j :=
  ⟨by rfl, by rfl, by decide +kernel, by decide +kernel, by decide +kernel, by decide +kernel⟩

theorem witness_ImageValidKept :
    StateInv alpha ∧ ImageValid alpha ∧ exec (cmdInstr .line) alpha = .next (after .line alpha) :=
  ⟨by decide +kernel, by decide, rfl⟩

/-- InvalidImage at a width of 0 and at the least i32; Capacity when PIX or DST is one byte too small. -/
theorem witness_EncodeChecks :
    idle.imgWidth.toInt ≤ 0 ∧ (0x80000000#32 : Word).toInt ≤ 0 ∧ 0 < pixel.imgWidth.toInt ∧ 0 < pixel.imgHeight.toInt ∧
      ((({ pixel with capPix := 2#32 } : State).capPix.toNat : Int) < pixel.imgWidth.toInt * pixel.imgHeight.toInt * 3) ∧
      ({ pixel with capDst := 57#32 } : State).capDst.toNat
        < 54 + rowStrideOf pixel.imgWidth.toInt.toNat 3 * pixel.imgHeight.toInt.toNat := by decide

/-- ENCODE succeeds when PIX and DST are exactly large enough. -/
theorem witness_EncodeWritesTheFile :
    pixel.imgWidth.toInt = (1 : Nat) ∧ pixel.imgHeight.toInt = (1 : Nat) ∧ 0 < 1 ∧
      3 = (if pixel.imgFmt.getLsbD 1 then 4 else 3) ∧ false = pixel.imgFmt.getLsbD 0 ∧ 4 = rowStrideOf 1 3 ∧
      1 * 1 * 3 ≤ ({ pixel with capPix := 3#32 } : State).capPix.toNat ∧
      54 + 4 * 1 ≤ ({ pixel with capDst := 58#32 } : State).capDst.toNat := by decide

theorem witness_DecodeInvertsEncodeOfAnImage :
    StateInv pixel ∧ exec .encode pixel = .next (after .encode pixel) ∧ (after .encode pixel).status = 2#32 ∧
      (loaded tiny).srcLen = (after .encode pixel).dstLen ∧
      ∀ i, i < (after .encode pixel).dstLen.toNat →
        (loaded tiny).byteAt .src i = (after .encode pixel).byteAt .dst i :=
  ⟨by decide +kernel, rfl, by decide +kernel, by decide +kernel, by decide +kernel⟩

theorem witness_EncodeIsIdempotent :
    (loaded tiny).capPix = pixel.capPix ∧ (loaded tiny).capDst = pixel.capDst ∧
      exec .decode (loaded tiny) = .next (after .decode (loaded tiny)) ∧
      exec .encode (after .decode (loaded tiny)) = .next (after .encode (after .decode (loaded tiny))) :=
  ⟨rfl, rfl, rfl, rfl⟩

/-- The hypotheses, and a file that is reproduced. -/
theorem witness_WhenEncodeReproducesTheFile :
    let g := geometryOf (srcOf (loaded tiny))
    StateInv (loaded tiny) ∧ parse (srcOf (loaded tiny)) (loaded tiny).srcLen.toNat = .ok g ∧
      54 + g.stride * g.absH ≤ (loaded tiny).capDst.toNat ∧ g.dib = 40 ∧ g.off = 54 ∧
      firstBytes (after .encode (after .decode (loaded tiny))) .dst 58 = tiny :=
  ⟨by decide +kernel, by rfl, by decide +kernel, by decide +kernel, by decide +kernel, by decide +kernel⟩

/-- A 2 × 2 image of 3 bytes needs 12 bytes: 11 are too few, 12 are enough. -/
theorem witness_LineCapacityCheck :
    let s := image 2#32 2#32 0#32 []
    0 < s.imgWidth.toInt ∧ 0 < s.imgHeight.toInt ∧
      ((({ s with capPix := 11#32 } : State).capPix.toNat : Int) < s.imgWidth.toInt * s.imgHeight.toInt * 3) ∧
      ¬ ((({ s with capPix := 12#32 } : State).capPix.toNat : Int) < s.imgWidth.toInt * s.imgHeight.toInt * 3) := by
  decide

theorem witness_LineOnEmptyWindow : idle.imgWidth.toInt ≤ 0 ∧ (0x80000000#32 : Word).toInt ≤ 0 := by decide

/-- A point of the window that the line visits and one that it does not, and an empty window whose sides are both
negative. -/
theorem witness_LineColoursVisitedPoints :
    let s := lined alpha 0#32 1#32 1#32 0#32
    ¬ s.lineTooBig ∧ (0 : Int) < s.imgW ∧ (1 : Int) < s.imgH ∧ 3 < s.bpp ∧
      (s.lineSetup.trace s.lineSetup.count s.lineSetup.start).map (fun p => (p.x, p.y)) = [(0, 1), (1, 0)] ∧
      s.imageBytes ≤ (16 : Int) ∧
      ¬ (image 0xFFFFFFFF#32 0xFFFFFFFE#32 0#32 []).lineTooBig ∧ (image 0xFFFFFFFF#32 0xFFFFFFFE#32 0#32 []).imgW ≤ 0 ∧
      (image 0xFFFFFFFF#32 0xFFFFFFFE#32 0#32 []).imageBytes = 6 := by decide +kernel

theorem witness_LineErrorTermBounds :
    (⟨0, 0, 2⟩ : LinePoint) ∈
      (lineSetup 4 4 3 0 0 3 1).trace (lineSetup 4 4 3 0 0 3 1).count (lineSetup 4 4 3 0 0 3 1).start := by
  decide +kernel

theorem witness_SquareClippingColoursTheDiagonal :
    let s := lined { image 1#32 1#32 0#32 [] with capPix := 3#32 } 0xFFFFFFFB#32 0xFFFFFFFB#32 6#32 6#32
    0 < 1 ∧ s.imgW = (1 : Nat) ∧ s.imgH = (1 : Nat) ∧ 1 * 1 * s.bpp ≤ s.capPix.toNat ∧ s.lineX0.toInt = -5 ∧
      s.lineY0.toInt = -5 ∧ s.lineX1.toInt = (1 : Nat) + 5 ∧ s.lineY1.toInt = (1 : Nat) + 5 := by decide

theorem witness_LineIgnoresRowOrigin :
    (3#32 : Word).getLsbD 1 = alpha.imgFmt.getLsbD 1 ∧ exec .line alpha = .next (after .line alpha) := ⟨by decide, rfl⟩

theorem witness_LinePointsAreAConnectedPath :
    ((lineSetup 4 4 3 0 0 3 1).trace (lineSetup 4 4 3 0 0 3 1).count (lineSetup 4 4 3 0 0 3 1).start)[0]?
        = some ⟨0, 0, 2⟩ ∧
      ((lineSetup 4 4 3 0 0 3 1).trace (lineSetup 4 4 3 0 0 3 1).count (lineSetup 4 4 3 0 0 3 1).start)[1]?
        = some ⟨1, 0, 1⟩ := by decide +kernel

end Sys2Proof.Tests
end

section
/-! SUPPORT. The capacity registers (R37): what a register number of theirs reads and ignores, and that no operation,
command, instruction or step changes them. -/

namespace Sys2Proof.Machine

open Sys2Proof

/-- `t` has the capacity registers of `s`. -/
abbrev SameCaps (s t : State) : Prop :=
  t.capSrc = s.capSrc ∧ t.capPix = s.capPix ∧ t.capDst = s.capDst

theorem SameCaps.refl (s : State) : SameCaps s s := ⟨rfl, rfl, rfl⟩

theorem SameCaps.trans {s t u : State} : SameCaps s t → SameCaps t u → SameCaps s u
  | ⟨hsrc, hpix, hdst⟩, ⟨hsrc', hpix', hdst'⟩ => ⟨hsrc'.trans hsrc, hpix'.trans hpix, hdst'.trans hdst⟩

/-! ### Register numbers -/

@[simp] theorem regOfAddr_addrOfReg (r : RegName) : regOfAddr (addrOfReg r) = some r := by cases r <;> rfl

@[simp] theorem State.hostRegRead_addrOfReg (s : State) (r : RegName) :
    s.hostRegRead (addrOfReg r) = s.readReg r := by
  simp only [State.hostRegRead, regOfAddr_addrOfReg]

/-- The numbers 17 to 19 are those of the capacity registers (R21). -/
theorem eq_addrOfReg_cap {a : Word} (hlo : 17 ≤ a.toNat) (hhi : a.toNat ≤ 19) :
    a = addrOfReg .capSrc ∨ a = addrOfReg .capPix ∨ a = addrOfReg .capDst := by
  simp only [addrOfReg]
  bv_omega

/-- A host write to a capacity register is ignored (R37, R221). -/
theorem State.hostRegWrite_cap (s : State) (v : Word) {a : Word} (hlo : 17 ≤ a.toNat) (hhi : a.toNat ≤ 19) :
    s.hostRegWrite a v = s := by
  rcases eq_addrOfReg_cap hlo hhi with rfl | rfl | rfl <;>
    simp only [State.hostRegWrite, regOfAddr_addrOfReg]

/-! ### Commands -/

theorem State.runParse_sameCaps (s : State) : SameCaps s s.runParse := by
  rcases s.runParse_cases with ⟨e, -, h⟩ | ⟨g, -, h⟩ <;> rw [h] <;> exact ⟨rfl, rfl, rfl⟩

theorem State.runDecode_sameCaps (s : State) : SameCaps s s.runDecode := by
  rcases s.runDecode_cases with ⟨e, -, h⟩ | ⟨g, -, h⟩ <;> rw [h] <;> exact ⟨rfl, rfl, rfl⟩

theorem State.runEncode_sameCaps (s : State) : SameCaps s s.runEncode := by
  rcases s.runEncode_cases with ⟨e, -, -, h⟩ | ⟨-, -, -, -, -, h⟩ <;> rw [h] <;> exact ⟨rfl, rfl, rfl⟩

theorem State.runLine_sameCaps (s : State) : SameCaps s s.runLine := by
  rcases s.runLine_cases with ⟨-, h⟩ | ⟨-, h⟩ <;> rw [h] <;> exact ⟨rfl, rfl, rfl⟩

theorem State.runCommand_sameCaps (s : State) : ∀ c : Command, SameCaps s (s.runCommand c)
  | .parse => s.runParse_sameCaps
  | .decode => s.runDecode_sameCaps
  | .encode => s.runEncode_sameCaps
  | .line => s.runLine_sameCaps

theorem State.writeCmd_sameCaps (s : State) (w : Word) : SameCaps s (s.writeCmd w) := by
  rcases s.writeCmd_cases w with ⟨c, -, h⟩ | ⟨-, h⟩ <;> rw [h]
  · exact s.runCommand_sameCaps c
  · exact ⟨rfl, rfl, rfl⟩

/-! ### Host operations, instructions and steps -/

/-- Only CMD runs anything; every other register write stores one register, and none of those is a capacity. -/
theorem State.hostRegWrite_sameCaps (s : State) (a v : Word) : SameCaps s (s.hostRegWrite a v) := by
  rw [State.hostRegWrite]
  cases regOfAddr a with
  | none => exact .refl s
  | some r =>
    cases r with
    | cmd => exact s.writeCmd_sameCaps v
    | _ => exact ⟨rfl, rfl, rfl⟩

theorem exec_sameCaps {i : Instr} {s t : State} (h : exec i s = .next t) : SameCaps s t := by
  cases i with
  | parse => exact next_inj h ▸ s.runParse_sameCaps
  | decode => exact next_inj h ▸ s.runDecode_sameCaps
  | encode => exact next_inj h ▸ s.runEncode_sameCaps
  | line => exact next_inj h ▸ s.runLine_sameCaps
  | wreg a v => exact next_inj h ▸ s.hostRegWrite_sameCaps a v
  | rreg | rsrc | rpix | rdst | wdst => exact next_inj h ▸ ⟨rfl, rfl, rfl⟩
  | wsrc | wpix =>
    obtain rfl := next_inj h
    split <;> exact ⟨rfl, rfl, rfl⟩

/-- No step changes a capacity: BRT idles, resets (which keeps them, R270), or executes an instruction. -/
theorem step_sameCaps {s t : State} (h : step s = .next t) : SameCaps s t := by
  cases hin : s.inbox with
  | nil => exact next_inj ((step_idle hin).symm.trans h) ▸ .refl s
  | cons e rest =>
    have hpop : SameCaps s s.pop := ⟨rfl, rfl, rfl⟩
    cases e with
    | reset => exact next_inj ((step_reset hin).symm.trans h) ▸ ⟨rfl, rfl, rfl⟩
    | op o => exact hpop.trans (exec_sameCaps ((step_op hin).symm.trans h))

/-- A host read of a register answers its value and changes nothing else (R67, R221). -/
theorem exec_rreg_addrOfReg (r : RegName) (s : State) :
    exec (.rreg (addrOfReg r)) s = .next { s with rdata := s.readReg r } := by
  rw [exec_rreg, State.hostRegRead_addrOfReg, State.answer]

/-- Settles O7: every step keeps `SameCaps`, and the register numbers 17 to 19 read the capacities and ignore writes. -/
theorem capacitiesNeverChange : Obligations.CapacitiesNeverChange := by
  refine ⟨⟨rfl, rfl, rfl⟩, fun s t h => step_sameCaps h, fun s => ⟨?_, ?_, ?_, fun a v hlo hhi => ?_⟩⟩
  · exact exec_rreg_addrOfReg .capSrc s
  · exact exec_rreg_addrOfReg .capPix s
  · exact exec_rreg_addrOfReg .capDst s
  · rw [exec_wreg, s.hostRegWrite_cap v hlo hhi]

end Sys2Proof.Machine
end

section
/-! SUPPORT. Decoding a command word (R92): the word of R91 alone gives its command, and every other word is ILLEGAL. -/

namespace Sys2Proof.Machine

open Sys2Proof

/-- Two words with the fields that `decodeCmd` tests, the upper 28 bits and the low four, are equal. -/
theorem eq_of_decodeCmd_fields {v w : Word} (hhigh : v.extractLsb 31 4 = w.extractLsb 31 4)
    (hlow : v.extractLsb 3 0 = w.extractLsb 3 0) : v = w := by
  have hhigh' := congrArg BitVec.toNat hhigh
  have hlow' := congrArg BitVec.toNat hlow
  simp only [BitVec.extractLsb_toNat, Nat.shiftRight_eq_div_pow] at hhigh' hlow'
  apply BitVec.eq_of_toNat_eq
  omega

/-- A command's word has no bit above the low four. -/
theorem extractLsb_high_cmdWord (c : Command) : (cmdWord c).extractLsb 31 4 = 0#28 := by cases c <;> rfl

@[simp] theorem decodeCmd_cmdWord (c : Command) : decodeCmd (cmdWord c) = .ok c := by cases c <;> rfl

/-- Once the upper bits are 0, a branch of `decodeCmd` taken would make the word that branch's command word. -/
theorem decodeCmd_of_ne_cmdWord {w : Word} (hne : ∀ c : Command, w ≠ cmdWord c) :
    decodeCmd w = .error .illegalCommand := by
  by_cases hhigh : w.extractLsb 31 4 = 0#28
  · have hlow (c : Command) : w.extractLsb 3 0 ≠ (cmdWord c).extractLsb 3 0 := fun h =>
      hne c (eq_of_decodeCmd_fields (hhigh.trans (extractLsb_high_cmdWord c).symm) h)
    calc decodeCmd w
      _ = _ := if_neg (not_not.mpr hhigh)
      _ = _ := if_neg (hlow .parse)
      _ = _ := if_neg (hlow .decode)
      _ = _ := if_neg (hlow .encode)
      _ = .error .illegalCommand := if_neg (hlow .line)
  · exact if_pos hhigh

theorem decodeCmd_eq_illegal_iff {w : Word} :
    decodeCmd w = .error .illegalCommand ↔ ∀ c : Command, w ≠ cmdWord c := by
  refine ⟨?_, decodeCmd_of_ne_cmdWord⟩
  rintro h c rfl
  cases (decodeCmd_cmdWord c).symm.trans h

theorem decodeCmd_eq_ok_iff {w : Word} {c : Command} : decodeCmd w = .ok c ↔ w = cmdWord c := by
  refine ⟨fun h => ?_, fun h => h ▸ decodeCmd_cmdWord c⟩
  by_cases hw : ∃ d, w = cmdWord d
  · obtain ⟨d, rfl⟩ := hw
    cases (decodeCmd_cmdWord d).symm.trans h
    rfl
  · cases (decodeCmd_of_ne_cmdWord (not_exists.mp hw)).symm.trans h

/-- Settles O8: a word decodes to a command exactly when it is that command's word, and is ILLEGAL when it is none's. -/
theorem commandWordsDecode : Obligations.CommandWordsDecode := by
  refine fun w => ⟨decodeCmd_eq_ok_iff, decodeCmd_eq_ok_iff, decodeCmd_eq_ok_iff, decodeCmd_eq_ok_iff, ?_⟩
  rw [decodeCmd_eq_illegal_iff]
  constructor
  · exact fun h => ⟨h .parse, h .decode, h .encode, h .line⟩
  · rintro ⟨hparse, hdecode, hencode, hline⟩ (_ | _ | _ | _)
    exacts [hparse, hdecode, hencode, hline]

end Sys2Proof.Machine
end

section
/-! SUPPORT. The order of the checks of `parse` (R141, R254): a table of checks answers its first failing check, and
`parse` is the answer of the table `parseChecks`. -/

namespace Sys2Proof.Machine

open Sys2Proof

/-- The answer of a table of checks: the error of the first check that fails, and the record when none fails. -/
def afterChecks (checks : List (Bool × Error)) (g : Geometry) : Except Error Geometry :=
  match checks.find? (fun c => c.1) with
  | some c => .error c.2
  | none => .ok g

theorem afterChecks_nil (g : Geometry) : afterChecks [] g = .ok g := rfl

theorem afterChecks_cons (p : Prop) [Decidable p] (e : Error) (rest : List (Bool × Error)) (g : Geometry) :
    afterChecks ((decide p, e) :: rest) g = if p then .error e else afterChecks rest g := by
  by_cases hp : p <;> simp [afterChecks, hp]

theorem afterChecks_congr {checks : List (Bool × Error)} {g k : Geometry}
    (h : checks.find? (fun c => c.1) = none → g = k) : afterChecks checks g = afterChecks checks k := by
  simp only [afterChecks]
  cases hfind : checks.find? (fun c => c.1) with
  | some c => rfl
  | none => rw [h hfind]

/-- Each test of `parse` is the test of the same place in `parseChecks`, in that table's wording. -/
theorem parse_eq_afterChecks (S : Nat → Byte) (L : Nat) :
    parse S L = afterChecks (parseChecks S L) (geometryOf S) := by
  have hmagic : S 0 ≠ 0x42#8 ∨ S 1 ≠ 0x4D#8 ↔ ¬ (S 0 = 0x42#8 ∧ S 1 = 0x4D#8) := not_and_or.symm
  have hheader : L < 14 + max (u32le S 14) 4 ↔ L < 14 + u32le S 14 ∨ L < 14 + 4 := by omega
  have hdepth : u16le S 28 ≠ 24 ∧ u16le S 28 ≠ 32 ↔ ¬ (u16le S 28 = 24 ∨ u16le S 28 = 32) := not_or.symm
  have hsize : i32le S 18 ≤ 0 ∨ (i32le S 22).natAbs = 0 ↔ i32le S 18 ≤ 0 ∨ i32le S 22 = 0 := by
    rw [Int.natAbs_eq_zero]
  have hrows (off need : Nat) : L < off ∨ L - off < need ↔ L < off + need := by omega
  simp only [parseChecks, afterChecks_cons, afterChecks_nil]
  refine if_congr .rfl rfl (if_congr hmagic rfl (if_congr .rfl rfl (if_congr hheader rfl (if_congr .rfl rfl ?_))))
  exact if_congr .rfl rfl (if_congr hdepth rfl (if_congr .rfl rfl (if_congr hsize rfl (if_congr (hrows _ _) rfl rfl))))

/-- When no check fails, the bit count is one of the two of R105. -/
theorem bitcnt_of_no_failing_check {S : Nat → Byte} {L : Nat}
    (h : (parseChecks S L).find? (fun c => c.1) = none) : u16le S 28 = 24 ∨ u16le S 28 = 32 := by
  have hdepth := List.find?_eq_none.mp h
    (decide (¬ (u16le S 28 = 24 ∨ u16le S 28 = 32)), .unsupportedBitDepth) (by simp [parseChecks])
  simpa only [decide_eq_true_eq, not_not] using hdepth

/-- Bytes per pixel of the two bit counts of R105. -/
theorem bytesPerPixel_of_bitcnt {n : Nat} (h : n = 24 ∨ n = 32) : n / 8 = if n = 24 then 3 else 4 := by
  rcases h with rfl | rfl <;> rfl

/-- Settles O29: `parse` is the answer of `parseChecks`, and the record's bytes per pixel are 3 or 4 once its depth
check has passed. -/
theorem parseChecksInOrder : Obligations.ParseChecksInOrder := by
  intro S L
  rw [parse_eq_afterChecks]
  refine afterChecks_congr fun hnone => ?_
  rw [geometryOf, bytesPerPixel_of_bitcnt (bitcnt_of_no_failing_check hnone)]

end Sys2Proof.Machine
end

section
/-! SUPPORT. PARSE (R140): what STATUS reads after an error, and that each register a successful parse writes reads as
the component it holds (R147). -/

namespace Sys2Proof.Machine

open Sys2Proof

/-- STATUS after an error is 6 + 16 × code (R252). -/
theorem statusError_eq_ofNat (e : Error) : statusError e = BitVec.ofNat 32 (6 + 16 * (errorCode e).toNat) := by
  cases e <;> rfl

theorem i32le_range (B : Nat → Byte) (a : Nat) : -2 ^ 31 ≤ i32le B a ∧ i32le B a < 2 ^ 31 :=
  sext32_range (u32le_lt B a)

/-- An i32 field reads back from a register as itself (R147). -/
theorem toInt_ofInt_i32le (B : Nat → Byte) (a : Nat) : (BitVec.ofInt 32 (i32le B a)).toInt = i32le B a :=
  BitVec.toInt_ofInt_eq_self (by decide) (i32le_range B a).1 (i32le_range B a).2


/-- A number below 2^32 reads back from a register as itself (R147). -/
theorem toNat_ofNat_word {n : Nat} (h : n < 2 ^ 32) : (BitVec.ofNat 32 n).toNat = n :=
  (BitVec.toNat_ofNat n 32).trans (Nat.mod_eq_of_lt h)

/-- A file that holds at least one row is no shorter than its stride. -/
theorem stride_le_of_parse_ok {S : Nat → Byte} {L : Nat} {g : Geometry} (h : parse S L = .ok g) : g.stride ≤ L := by
  obtain ⟨-, -, -, -, -, -, -, -, -, habsH, hneed⟩ := parse_ok h
  calc g.stride
    _ ≤ g.need := Nat.le_mul_of_pos_right _ habsH
    _ ≤ g.off + g.need := Nat.le_add_left ..
    _ ≤ L := hneed

/-- After `commit_parse` of a successful parse each register reads exactly as its component (R146, R147). -/
theorem State.commitParse_reads (s : State) {S : Nat → Byte} {L : Nat} {g : Geometry} (hL : L < 2 ^ 32)
    (h : parse S L = .ok g) :
    (s.commitParse g).pOffset.toNat = g.off ∧ (s.commitParse g).pDibsize.toNat = g.dib ∧
      (s.commitParse g).pWidth.toInt = g.width ∧ (s.commitParse g).pHeight.toInt = g.height ∧
      (s.commitParse g).pBitcnt.toNat = g.bitcnt ∧ (s.commitParse g).rowStride.toNat = g.stride := by
  have hstride := (stride_le_of_parse_ok h).trans_lt hL
  obtain ⟨rfl, -⟩ := parse_ok h
  exact ⟨toNat_ofNat_word (u32le_lt S 10), toNat_ofNat_word (u32le_lt S 14), toInt_ofInt_i32le S 18,
    toInt_ofInt_i32le S 22, toNat_ofNat_word ((u16le_lt S 28).trans (by decide)),
    toNat_ofNat_word hstride⟩

theorem State.runParse_of_ok {s : State} {g : Geometry} (h : s.parsed = .ok g) :
    s.runParse = (s.commitParse g).complete := by
  rw [State.runParse, h]

theorem State.runParse_of_error {s : State} {e : Error} (h : s.parsed = .error e) : s.runParse = s.raise e := by
  rw [State.runParse, h]

/-- Settles O33: a successful PARSE runs to the committed record, whose registers read back exactly, and a failing one
raises its error, which writes STATUS alone. -/
theorem parseCommand : Obligations.ParseCommand := by
  refine fun s => ⟨fun g hok => ?_, fun e herr => ?_⟩
  · exact ⟨(s.commitParse g).complete, congrArg _ (State.runParse_of_ok hok), rfl,
      s.commitParse_reads s.srcLen.isLt hok⟩
  · rw [exec_parse, State.runParse_of_error herr, State.raise, statusError_eq_ofNat]

end Sys2Proof.Machine
end

section
/-! SUPPORT. DECODE (R160): the bounds that a successful parse puts on the Image, what the registers and PIX hold after
the rows are in, and the two row orders of one picture (R166). -/

namespace Sys2Proof.Machine

open Sys2Proof

/-! ### The bounds of a successful parse (R145, R146) -/

theorem bpp_eq_of_parse_ok {S : Nat → Byte} {L : Nat} {g : Geometry} (h : parse S L = .ok g) :
    g.bpp = g.bitcnt / 8 := by
  obtain ⟨rfl, -⟩ := parse_ok h
  rfl

theorem td_eq_of_parse_ok {S : Nat → Byte} {L : Nat} {g : Geometry} (h : parse S L = .ok g) :
    g.td = decide (g.height < 0) := by
  obtain ⟨rfl, -⟩ := parse_ok h
  rfl

theorem bpp_of_parse_ok {S : Nat → Byte} {L : Nat} {g : Geometry} (h : parse S L = .ok g) :
    g.bpp = 3 ∨ g.bpp = 4 := by
  obtain ⟨-, -, -, -, -, -, hbitcnt, -⟩ := parse_ok h
  rw [bpp_eq_of_parse_ok h]
  omega

theorem rowBytes_pos_of_parse_ok {S : Nat → Byte} {L : Nat} {g : Geometry} (h : parse S L = .ok g) :
    0 < g.rowBytes := by
  obtain ⟨-, -, -, -, -, -, -, -, hwidth, -⟩ := parse_ok h
  have hbpp := bpp_of_parse_ok h
  exact Nat.mul_pos (by omega) (by omega)

/-- The pixel bytes of all rows fit the file (R146). -/
theorem pixelBytes_le_of_parse_ok {S : Nat → Byte} {L : Nat} {g : Geometry} (h : parse S L = .ok g) :
    g.absH * g.rowBytes ≤ L := by
  obtain ⟨rfl, -, -, -, -, -, -, -, -, -, hneed⟩ := parse_ok h
  calc (geometryOf S).absH * (geometryOf S).rowBytes
    _ ≤ (geometryOf S).absH * (geometryOf S).stride := Nat.mul_le_mul_left _ (geometryOf_rowBytes_le S)
    _ = (geometryOf S).need := Nat.mul_comm ..
    _ ≤ (geometryOf S).off + (geometryOf S).need := Nat.le_add_left ..
    _ ≤ L := hneed

/-- Each row has at least three pixel bytes and all of them lie in the file, so |height| is an i32 (R146). -/
theorem absH_lt_of_parse_ok {S : Nat → Byte} {L : Nat} {g : Geometry} (hL : L < 2 ^ 32) (h : parse S L = .ok g) :
    g.absH < 2 ^ 31 := by
  obtain ⟨-, -, -, -, -, -, -, -, hwidth, -⟩ := parse_ok h
  have hrow : 1 * 3 ≤ g.rowBytes := Nat.mul_le_mul (by omega) (by have := bpp_of_parse_ok h; omega)
  have hrows := (Nat.mul_le_mul_left g.absH hrow).trans (pixelBytes_le_of_parse_ok h)
  omega

/-! ### The format word (R27, R160) -/

theorem fmtWord_toNat {bpp : Nat} (td : Bool) (h : bpp = 3 ∨ bpp = 4) :
    (fmtWord bpp td).toNat = (bpp - 3) * 2 + (if td then 1 else 0) := by
  rcases h with rfl | rfl <;> cases td <;> rfl

theorem fmtBpp_fmtWord {bpp : Nat} (td : Bool) (h : bpp = 3 ∨ bpp = 4) : fmtBpp (fmtWord bpp td) = bpp := by
  rcases h with rfl | rfl <;> cases td <;> rfl

theorem fmtTopDown_fmtWord {bpp : Nat} (td : Bool) (h : bpp = 3 ∨ bpp = 4) : fmtTopDown (fmtWord bpp td) = td := by
  rcases h with rfl | rfl <;> cases td <;> rfl

/-- The formats of the two row orders differ in TOPDOWN only. -/
theorem fmtWord_true {bpp : Nat} (h : bpp = 3 ∨ bpp = 4) : fmtWord bpp true = fmtWord bpp false ||| 1#32 := by
  rcases h with rfl | rfl <;> rfl

/-! ### What DECODE leaves -/

/-- What a successful DECODE leaves (R160). -/
def State.decoded (s : State) (g : Geometry) : State :=
  (((s.commitParse g).commitImage g).withPix (rowsIn (s.byteAt .src) g s.pix)).complete

theorem State.runDecode_of_ok {s : State} {g : Geometry} (h : s.parsed = .ok g) : s.runDecode = s.decoded g := by
  rw [State.runDecode, h, State.decoded]

theorem State.runDecode_of_error {s : State} {e : Error} (h : s.parsed = .error e) : s.runDecode = s.raise e := by
  rw [State.runDecode, h]

/-- Canonical row `y` holds the pixel bytes of the file row that is its mirror (R162). -/
theorem State.decoded_pix_row (s : State) (g : Geometry) {y j : Nat} (hy : y < g.absH) (hj : j < g.rowBytes) :
    (s.decoded g).byteAt .pix (y * g.rowBytes + j) = s.fileByte g (canonicalRow y g.absH g.td) j := by
  rw [State.decoded, State.complete_byteAt, State.withPix_byteAt_pix, rowsIn_hit _ _ _ hy hj]
  rfl

/-- DECODE leaves PIX from w × h × bpp on (R160). -/
theorem State.decoded_pix_beyond (s : State) (g : Geometry) {i : Nat} (h : g.absH * g.rowBytes ≤ i) :
    (s.decoded g).byteAt .pix i = s.byteAt .pix i := by
  rw [State.decoded, State.complete_byteAt, State.withPix_byteAt_pix, rowsIn_miss _ _ _ h]
  rfl

/-- The Image has the file's width (R160). -/
theorem State.decoded_imgW (s : State) {S : Nat → Byte} {L : Nat} {g : Geometry} (h : parse S L = .ok g) :
    (s.decoded g).imgW = g.width := by
  obtain ⟨rfl, -⟩ := parse_ok h
  exact toInt_ofInt_i32le S 18

/-- The Image has the file's |height| (R160). -/
theorem State.decoded_imgH (s : State) {S : Nat → Byte} {L : Nat} {g : Geometry} (hL : L < 2 ^ 32)
    (h : parse S L = .ok g) : (s.decoded g).imgH = (g.absH : Int) := by
  have habsH := absH_lt_of_parse_ok hL h
  have hread : (s.decoded g).imgHeight.toNat = g.absH := toNat_ofNat_word (by omega)
  rw [State.imgH, BitVec.toInt_eq_toNat_of_lt (by omega), hread]

/-- The bytes of the Image are the pixel bytes of the file's rows. -/
theorem State.decoded_imageBytes (s : State) {S : Nat → Byte} {L : Nat} {g : Geometry} (hL : L < 2 ^ 32)
    (h : parse S L = .ok g) : (s.decoded g).imageBytes = ((g.absH * g.rowBytes : Nat) : Int) := by
  obtain ⟨-, -, -, -, -, -, -, -, hwidth, -⟩ := parse_ok h
  have hbpp : (s.decoded g).bpp = g.bpp := fmtBpp_fmtWord g.td (bpp_of_parse_ok h)
  have hw : (g.width.toNat : Int) = g.width := Int.toNat_of_nonneg hwidth.le
  rw [State.imageBytes, s.decoded_imgW h, s.decoded_imgH hL h, hbpp, Geometry.rowBytes]
  push_cast [hw]
  ring

/-- A decoded Image fits PIX, since its file fits SRC and SRC_CAP ≤ PIX_CAP (R7, R48). -/
theorem State.decoded_imageValid {s : State} {g : Geometry} (hs : StateInv s) (h : s.parsed = .ok g) :
    ImageValid (s.decoded g) := by
  obtain ⟨⟨-, hcaps, -⟩, -, hlen, -⟩ := hs
  obtain ⟨-, -, -, -, -, -, -, -, hwidth, habsH, -⟩ := parse_ok h
  rw [ImageValid, s.decoded_imgW h, s.decoded_imgH s.srcLen.isLt h, s.decoded_imageBytes s.srcLen.isLt h]
  have hfit : g.absH * g.rowBytes ≤ s.capPix.toNat := ((pixelBytes_le_of_parse_ok h).trans hlen).trans hcaps
  exact ⟨hwidth, Int.natCast_pos.mpr habsH, Int.ofNat_le.mpr hfit⟩

/-- Settles O34: a successful DECODE runs to `State.decoded`, whose registers and PIX bytes are those of the record and
the file rows, and a failing one raises its error. -/
theorem decodeCommand : Obligations.DecodeCommand := by
  refine fun s => ⟨fun g hok => ?_, fun e herr => ?_⟩
  · obtain ⟨hoff, hdib, hwidth, hheight, hbitcnt, hstride⟩ := s.commitParse_reads s.srcLen.isLt hok
    refine ⟨s.decoded g, congrArg _ (State.runDecode_of_ok hok), rfl, hoff, hdib, hwidth, hheight, hbitcnt, hstride,
      s.decoded_imgW hok, s.decoded_imgH s.srcLen.isLt hok, fmtWord_toNat g.td (bpp_of_parse_ok hok),
      fun y j hy hj => s.decoded_pix_row g hy hj, fun i hi => s.decoded_pix_beyond g ?_,
      fun hs => State.decoded_imageValid hs hok⟩
    calc g.absH * g.rowBytes
      _ = g.width.toNat * g.absH * g.bpp := by rw [Geometry.rowBytes, ← Nat.mul_assoc, Nat.mul_comm g.absH]
      _ ≤ i := hi
  · rw [exec_decode, State.runDecode_of_error herr, State.raise, statusError_eq_ofNat]

/-! ### The two row orders of one picture (R166) -/

/-- A bottom-up and a top-down decode of mirrored file rows agree on every byte below the Image's end: byte `i` lies in
canonical row i / row_bytes, which is the mirror of a bottom-up file's row and the very row of a top-down file. -/
theorem State.decoded_pix_eq_of_mirrored {s u : State} {g k : Geometry} (hg : g.td = false) (hk : k.td = true)
    (habsH : g.absH = k.absH) (hrow : g.rowBytes = k.rowBytes) (hpos : 0 < g.rowBytes)
    (hpix : ∀ r j : Nat, r < g.absH → j < g.rowBytes → s.fileByte g r j = u.fileByte k (g.absH - 1 - r) j)
    {i : Nat} (hi : i < g.absH * g.rowBytes) : (s.decoded g).byteAt .pix i = (u.decoded k).byteAt .pix i := by
  obtain ⟨y, j, hy, hj, rfl⟩ : ∃ y j, y < g.absH ∧ j < g.rowBytes ∧ y * g.rowBytes + j = i :=
    ⟨i / g.rowBytes, i % g.rowBytes, Nat.div_lt_of_lt_mul (Nat.mul_comm .. ▸ hi), Nat.mod_lt _ hpos,
      Nat.div_add_mod' i g.rowBytes⟩
  calc (s.decoded g).byteAt .pix (y * g.rowBytes + j)
    _ = s.fileByte g (g.absH - 1 - y) j := by rw [s.decoded_pix_row g hy hj, hg]; rfl
    _ = u.fileByte k (g.absH - 1 - (g.absH - 1 - y)) j := hpix _ _ (by omega) hj
    _ = u.fileByte k y j := by rw [show g.absH - 1 - (g.absH - 1 - y) = y by omega]
    _ = (u.decoded k).byteAt .pix (y * k.rowBytes + j) := by
      rw [u.decoded_pix_row k (habsH ▸ hy) (hrow ▸ hj), hk]; rfl
    _ = (u.decoded k).byteAt .pix (y * g.rowBytes + j) := by rw [hrow]

/-- Settles O35: the signs of the heights make one file bottom-up and the other top-down, so mirrored rows land in the
same canonical rows. -/
theorem rowOrderFlip : Obligations.RowOrderFlip := by
  intro s u g k hs hu hwidth hbitcnt habsH hgheight hkheight hpix
  have hbpp : k.bpp = g.bpp := by rw [bpp_eq_of_parse_ok hu, bpp_eq_of_parse_ok hs, hbitcnt]
  have hgtd : g.td = false := by rw [td_eq_of_parse_ok hs]; exact decide_eq_false (by omega)
  have hktd : k.td = true := by rw [td_eq_of_parse_ok hu]; exact decide_eq_true hkheight
  have hrow : g.rowBytes = k.rowBytes := by rw [Geometry.rowBytes, Geometry.rowBytes, hwidth, hbpp]
  have hfmt : (s.decoded g).imgFmt = fmtWord g.bpp false := congrArg (fmtWord g.bpp) hgtd
  have hfmt' : (u.decoded k).imgFmt = fmtWord g.bpp true := congrArg₂ fmtWord hbpp hktd
  refine ⟨s.decoded g, u.decoded k, congrArg _ (State.runDecode_of_ok hs), congrArg _ (State.runDecode_of_ok hu),
    congrArg (BitVec.ofInt 32) hwidth, congrArg (BitVec.ofNat 32) habsH, ?_, ?_, fun i hi => ?_⟩
  · rw [hfmt, fmtTopDown_fmtWord false (bpp_of_parse_ok hs)]
  · rw [hfmt, hfmt', fmtWord_true (bpp_of_parse_ok hs)]
  · rw [s.decoded_imageBytes s.srcLen.isLt hs] at hi
    exact State.decoded_pix_eq_of_mirrored hgtd hktd habsH hrow (rowBytes_pos_of_parse_ok hs) hpix (Int.ofNat_lt.mp hi)

end Sys2Proof.Machine
end

section
/-! SUPPORT. The checks of ENCODE (R181): what `encode_check` answers in each case, its products in terms of the Image
registers, and what ENCODE then runs to. -/

namespace Sys2Proof.Machine

open Sys2Proof

/-! ### The products of `encode_check` -/

theorem fmtBpp_eq_ite (f : Word) : fmtBpp f = if f.getLsbD 1 then 4 else 3 := by
  rw [fmtBpp, fmtBpp4]
  cases f.getLsbD 1 <;> rfl

theorem State.imageBytes_eq_ite (s : State) :
    s.imageBytes = s.imgWidth.toInt * s.imgHeight.toInt * (if s.imgFmt.getLsbD 1 then 4 else 3) := by
  rw [State.imageBytes, State.bpp, fmtBpp_eq_ite, Nat.cast_ite]
  rfl

/-- The file of the plan has 54 header bytes and its rows (R181). -/
theorem State.encodePlan_fileSize_eq_ite (s : State) :
    s.encodePlan.fileSize =
      54 + rowStrideOf s.imgWidth.toInt.toNat (if s.imgFmt.getLsbD 1 then 4 else 3) * s.imgHeight.toInt.toNat := by
  rw [← fmtBpp_eq_ite]
  rfl

/-- The plan of a nonempty Image has the Image's pixel bytes (R30, R181). -/
theorem State.encodePlan_pixelBytes {s : State} (hw : 0 < s.imgW) (hh : 0 < s.imgH) :
    ((s.encodePlan.w * s.encodePlan.h * s.encodePlan.bpp : Nat) : Int) = s.imageBytes := by
  have hw' : (s.encodePlan.w : Int) = s.imgW := Int.toNat_of_nonneg hw.le
  have hh' : (s.encodePlan.h : Int) = s.imgH := Int.toNat_of_nonneg hh.le
  rw [State.imageBytes, Nat.cast_mul, Nat.cast_mul, hw', hh']
  rfl

/-! ### Its three answers -/

theorem State.encodeCheck_of_empty {s : State} (h : s.imgW ≤ 0 ∨ s.imgH ≤ 0) :
    s.encodeCheck = .error .invalidImage :=
  if_pos h

theorem State.encodeCheck_of_tooBig {s : State} (hw : 0 < s.imgW) (hh : 0 < s.imgH)
    (h : (s.cap .pix : Int) < s.imageBytes ∨ s.cap .dst < s.encodePlan.fileSize) :
    s.encodeCheck = .error .capacity := by
  rw [← State.encodePlan_pixelBytes hw hh, Int.ofNat_lt] at h
  exact (if_neg (by omega)).trans (if_pos h)

theorem State.encodeCheck_of_fits {s : State} (hw : 0 < s.imgW) (hh : 0 < s.imgH)
    (hpix : s.imageBytes ≤ (s.cap .pix : Int)) (hdst : s.encodePlan.fileSize ≤ s.cap .dst) :
    s.encodeCheck = .ok s.encodePlan := by
  rw [← State.encodePlan_pixelBytes hw hh, Int.ofNat_le] at hpix
  exact (if_neg (by omega)).trans (if_neg (by omega))

theorem State.runEncode_of_error {s : State} {e : Error} (h : s.encodeCheck = .error e) : s.runEncode = s.raise e := by
  rw [State.runEncode, h]

theorem State.runEncode_of_ok {s : State} {p : EncodePlan} (h : s.encodeCheck = .ok p) : s.runEncode = s.encoded p := by
  rw [State.runEncode, h, State.encoded]

/-- Settles O38: the products of the statement are those of `encode_check`, whose three answers are its three cases. -/
theorem encodeChecks : Obligations.EncodeChecks := by
  intro s
  rw [← s.imageBytes_eq_ite, ← s.encodePlan_fileSize_eq_ite]
  refine ⟨fun hempty => ?_, fun hw hh hbig => ?_, fun hw hh hpix hdst => ?_⟩
  · exact congrArg _ (State.runEncode_of_error (State.encodeCheck_of_empty hempty))
  · exact congrArg _ (State.runEncode_of_error (State.encodeCheck_of_tooBig hw hh hbig))
  · exact ⟨s.encoded s.encodePlan, congrArg _ (State.runEncode_of_ok (State.encodeCheck_of_fits hw hh hpix hdst)), rfl⟩

end Sys2Proof.Machine
end

section
/-! SUPPORT. The header of an encoded file read back (R182, R187): a field emitted by `le16` or `le32` reads as its
value, `parse` looks at the 54 header bytes alone, and a file with ENCODE's header parses to the plan's geometry. -/

namespace Sys2Proof.Machine

open Sys2Proof

/-! ### Emitted fields read back (R100 to R103) -/

/-- Four bytes that are a word's, least significant first, read as the word (R101). -/
theorem u32le_of_wordBytes {B : Nat → Byte} {a : Nat} {w : Word}
    (h : [B a, B (a + 1), B (a + 2), B (a + 3)] = wordBytes w) : u32le B a = w.toNat := by
  have hw := w.isLt
  simp only [wordBytes, List.cons.injEq, and_true] at h
  obtain ⟨h0, h1, h2, h3⟩ := h
  simp only [u32le, h0, h1, h2, h3, BitVec.extractLsb_toNat, Nat.shiftRight_eq_div_pow]
  omega

theorem sext32_toNat (w : Word) : sext32 w.toNat = w.toInt := by
  rw [sext32, BitVec.toInt_eq_toNat_cond]
  exact if_congr (by omega) rfl rfl

theorem i32le_of_le32 {B : Nat → Byte} {a : Nat} {v : Int} (hlo : -2 ^ 31 ≤ v) (hhi : v < 2 ^ 31)
    (h : [B a, B (a + 1), B (a + 2), B (a + 3)] = le32 v) : i32le B a = v := by
  rw [i32le, u32le_of_wordBytes h, sext32_toNat, BitVec.toInt_ofInt_eq_self (by decide) hlo hhi]

theorem u16le_of_le16 {B : Nat → Byte} {a v : Nat} (hv : v < 2 ^ 16) (h : [B a, B (a + 1)] = le16 v) :
    u16le B a = v := by
  simp only [le16, List.cons.injEq, and_true] at h
  obtain ⟨h0, h1⟩ := h
  simp only [u16le, h0, h1, BitVec.toNat_ofNat]
  omega

/-! ### `parse` looks at the header bytes alone (R143) -/

/-- `S` and `T` agree on the 54 header bytes. -/
abbrev SameHeader (S T : Nat → Byte) : Prop := ∀ i : Nat, i < 54 → S i = T i

theorem u16le_congr {S T : Nat → Byte} (h : SameHeader S T) {a : Nat} (ha : a + 2 ≤ 54) : u16le S a = u16le T a := by
  rw [u16le, h a (by omega), h (a + 1) (by omega), u16le]

theorem u32le_congr {S T : Nat → Byte} (h : SameHeader S T) {a : Nat} (ha : a + 4 ≤ 54) : u32le S a = u32le T a := by
  rw [u32le, h a (by omega), h (a + 1) (by omega), h (a + 2) (by omega), h (a + 3) (by omega), u32le]

theorem geometryOf_congr {S T : Nat → Byte} (h : SameHeader S T) : geometryOf S = geometryOf T := by
  have h18 : i32le S 18 = i32le T 18 := congrArg sext32 (u32le_congr h (by decide))
  have h22 : i32le S 22 = i32le T 22 := congrArg sext32 (u32le_congr h (by decide))
  rw [geometryOf, u32le_congr h (a := 10) (by decide), u32le_congr h (a := 14) (by decide), h18, h22,
    u16le_congr h (a := 28) (by decide), geometryOf]

theorem parse_congr {S T : Nat → Byte} (h : SameHeader S T) (L : Nat) : parse S L = parse T L := by
  simp only [parse, checkFields]
  rw [geometryOf_congr h, h 0 (by decide), h 1 (by decide), u32le_congr h (a := 14) (by decide),
    u32le_congr h (a := 30) (by decide), u16le_congr h (a := 26) (by decide)]

/-- A file that passes every check of R141 parses to the record of its fields: the converse of `parse_ok`. -/
theorem parse_of_checks {S : Nat → Byte} {L : Nat} {g : Geometry} (hg : geometryOf S = g)
    (hmagic : S 0 = 0x42#8 ∧ S 1 = 0x4D#8) (hdib : 40 ≤ g.dib) (hhead : 14 + g.dib ≤ L) (hcompr : u32le S 30 = 0)
    (hdepth : g.bitcnt = 24 ∨ g.bitcnt = 32) (hplanes : u16le S 26 = 1) (hw : 0 < g.width) (hh : 0 < g.absH)
    (hneed : g.off + g.need ≤ L) : parse S L = .ok g := by
  have hfields : checkFields S L g = .ok g :=
    calc checkFields S L g
      _ = _ := if_neg (not_not.mpr hcompr)
      _ = _ := if_neg (by omega)
      _ = _ := if_neg (not_not.mpr hplanes)
      _ = _ := if_neg (by omega)
      _ = .ok g := if_neg (by omega)
  have hdibfield : u32le S 14 = g.dib := congrArg Geometry.dib hg
  calc parse S L
    _ = _ := if_neg (by omega)
    _ = _ := if_neg (not_or.mpr ⟨not_not.mpr hmagic.1, not_not.mpr hmagic.2⟩)
    _ = _ := if_neg (by omega)
    _ = _ := if_neg (by omega)
    _ = _ := if_neg (by omega)
    _ = .ok g := hg ▸ hfields

/-! ### The emitted header parses to the plan -/

/-- The byte at index `i` of the emitted header. -/
def EncodePlan.header (p : EncodePlan) (i : Nat) : Byte := (headerBytes p).getD i 0x00#8

/-- Where the fields that `parse` reads stand in the emitted header (R182). -/
theorem EncodePlan.header_fields (p : EncodePlan) :
    [p.header 10, p.header 11, p.header 12, p.header 13] = le32 54 ∧
      [p.header 14, p.header 15, p.header 16, p.header 17] = le32 40 ∧
      [p.header 18, p.header 19, p.header 20, p.header 21] = le32 p.w ∧
      [p.header 22, p.header 23, p.header 24, p.header 25] = le32 p.heightField ∧
      [p.header 26, p.header 27] = le16 1 ∧ [p.header 28, p.header 29] = le16 (p.bpp * 8) ∧
      [p.header 30, p.header 31, p.header 32, p.header 33] = le32 0 := by
  simp [header, headerBytes, le32, le16, wordBytes]

/-- The ranges of what the Image registers of a nonempty Image can hold (R25 to R27). -/
abbrev EncodePlan.Legal (p : EncodePlan) : Prop :=
  0 < p.w ∧ p.w < 2 ^ 31 ∧ 0 < p.h ∧ p.h < 2 ^ 31 ∧ (p.bpp = 3 ∨ p.bpp = 4)

/-- The geometry of the file ENCODE writes: a 40-byte DIB header, the rows from byte 54 on (R182). -/
def EncodePlan.geometry (p : EncodePlan) : Geometry where
  off := 54
  dib := 40
  width := p.w
  height := p.heightField
  bitcnt := p.bpp * 8
  bpp := p.bpp
  td := p.td
  absH := p.h
  stride := p.stride

/-- The sign of the height field is the row order and its magnitude the height (R104). -/
theorem EncodePlan.heightField_spec {p : EncodePlan} (hh : 0 < p.h) :
    p.heightField.natAbs = p.h ∧ decide (p.heightField < 0) = p.td := by
  rw [EncodePlan.heightField]
  cases p.td
  · exact ⟨Int.natAbs_natCast p.h, decide_eq_false (by simp)⟩
  · exact ⟨by simp, decide_eq_true (by simpa using hh)⟩

theorem EncodePlan.heightField_range {p : EncodePlan} (hh : p.h < 2 ^ 31) :
    -2 ^ 31 ≤ p.heightField ∧ p.heightField < 2 ^ 31 := by
  rw [EncodePlan.heightField]
  split <;> omega

/-- Each field is read from the very bytes `emit_headers` put there. -/
theorem EncodePlan.geometryOf_header {p : EncodePlan} (hp : p.Legal) : geometryOf p.header = p.geometry := by
  obtain ⟨-, hw, hh0, hh, hbpp⟩ := hp
  obtain ⟨hlo, hhi⟩ := heightField_range hh
  obtain ⟨habs, hsign⟩ := heightField_spec hh0
  obtain ⟨h10, h14, h18, h22, -, h28, -⟩ := p.header_fields
  have hoff : u32le p.header 10 = 54 := u32le_of_wordBytes h10
  have hdib : u32le p.header 14 = 40 := u32le_of_wordBytes h14
  have hwidth : i32le p.header 18 = p.w := i32le_of_le32 (by omega) (by omega) h18
  have hheight : i32le p.header 22 = p.heightField := i32le_of_le32 hlo hhi h22
  have hbitcnt : u16le p.header 28 = p.bpp * 8 := u16le_of_le16 (by omega) h28
  rw [geometryOf, hoff, hdib, hwidth, hheight, hbitcnt, habs, hsign, Int.toNat_natCast,
    Nat.mul_div_cancel p.bpp (by decide)]
  rfl

/-- A file of the plan's size that begins with ENCODE's header parses to the plan's geometry. -/
theorem EncodePlan.parse_eq {p : EncodePlan} (hp : p.Legal) {S : Nat → Byte} (hS : SameHeader S p.header) :
    parse S p.fileSize = .ok p.geometry := by
  have hgeometry := geometryOf_header hp
  obtain ⟨hw, -, hh, -, hbpp⟩ := hp
  obtain ⟨-, -, -, -, h26, -, h30⟩ := p.header_fields
  have hcompr : u32le p.header 30 = 0 := u32le_of_wordBytes h30
  have hplanes : u16le p.header 26 = 1 := u16le_of_le16 (by decide) h26
  have hdepth : p.bpp * 8 = 24 ∨ p.bpp * 8 = 32 := hbpp.imp (by omega) (by omega)
  rw [parse_congr hS]
  exact parse_of_checks hgeometry ⟨rfl, rfl⟩ le_rfl (Nat.le_add_right 54 _) hcompr hdepth hplanes
    (Int.natCast_pos.mpr hw) hh le_rfl

end Sys2Proof.Machine
end

section
/-! SUPPORT. DECODE of an encoded Image (R187): what a successful ENCODE leaves, that the Image registers are those of
its plan's geometry, and that every pixel byte comes back to its place. -/

namespace Sys2Proof.Machine

open Sys2Proof

/-! ### What a successful ENCODE leaves -/

theorem State.encodePlan_legal {s : State} (hw : 0 < s.imgW) (hh : 0 < s.imgH) : s.encodePlan.Legal :=
  ⟨Int.lt_toNat.mpr hw, (Int.toNat_lt hw.le).mpr BitVec.toInt_lt, Int.lt_toNat.mpr hh,
    (Int.toNat_lt hh.le).mpr BitVec.toInt_lt, fmtBpp_eq s.imgFmt⟩

theorem statusError_ne_done (e : Error) : statusError e ≠ statusDone := by cases e <;> decide

/-- An ENCODE that completes with STATUS 2 passed its checks. -/
theorem encoded_of_done {s t : State} (h : exec .encode s = .next t) (hdone : t.status = 0x00000002#32) :
    0 < s.imgW ∧ 0 < s.imgH ∧ s.encodePlan.fileSize ≤ s.cap .dst ∧ t = s.encoded s.encodePlan := by
  obtain rfl := next_inj h
  rcases s.runEncode_cases with ⟨e, -, -, hrun⟩ | ⟨-, hw, hh, -, hdst, hrun⟩
  · rw [hrun] at hdone
    exact absurd hdone (statusError_ne_done e)
  · exact ⟨hw, hh, hdst, hrun⟩

theorem State.encoded_dstLen {s : State} {p : EncodePlan} (h : p.fileSize ≤ s.cap .dst) :
    (s.encoded p).dstLen.toNat = p.fileSize :=
  toNat_ofNat_word (h.trans_lt s.capDst.isLt)

theorem State.encoded_byteAt_dst (s : State) (p : EncodePlan) (i : Nat) :
    (s.encoded p).byteAt .dst i
      = ((rowsOut (s.byteAt .pix) p (emitHeaders p s.dst)).get? i).getD (Config.resetByte s.resets .dst i) := rfl

theorem State.encoded_header (s : State) (p : EncodePlan) : SameHeader ((s.encoded p).byteAt .dst) p.header := by
  intro i hi
  have hlt : i < (headerBytes p).length := hi
  rw [State.encoded_byteAt_dst, rowsOut_miss _ _ _ (.inl hi), emitHeaders_get?, if_pos hi, EncodePlan.header,
    List.getD_eq_getElem _ _ hlt, List.getElem?_eq_getElem hlt, Option.getD_some]

/-- File row `r` holds the pixel bytes of the canonical row that is its mirror (R184). -/
theorem State.encoded_pixel (s : State) (p : EncodePlan) {r k : Nat} (hr : r < p.h) (hk : k < p.rowBytes) :
    (s.encoded p).byteAt .dst (54 + r * p.stride + k)
      = s.byteAt .pix (canonicalRow r p.h p.td * p.rowBytes + k) := by
  rw [State.encoded_byteAt_dst, rowsOut_pixel _ _ _ hr hk, Option.getD_some]

theorem EncodePlan.pixel_lt_fileSize {p : EncodePlan} {r k : Nat} (hr : r < p.h) (hk : k < p.rowBytes) :
    54 + r * p.stride + k < p.fileSize := by
  have hpad := p.rowBytes_add_pad
  have hrow : r * p.stride + k < p.h * p.stride := row_index_lt hr (by omega)
  rw [EncodePlan.fileSize, EncodePlan.imageSize, Nat.mul_comm p.stride]
  omega

/-! ### The Image registers -/

/-- A legal format word is the word of its two fields (R27, R160). -/
theorem fmtWord_fields {f : Word} (h : FmtLegal f) : fmtWord (fmtBpp f) (fmtTopDown f) = f := by
  have hlow : f &&& 3#32 = f :=
    calc f &&& 3#32
      _ = 0#32 ||| f &&& 3#32 := BitVec.zero_or.symm
      _ = f &&& 0xFFFFFFFC#32 ||| f &&& 3#32 := by rw [h]
      _ = f &&& (0xFFFFFFFC#32 ||| 3#32) := BitVec.and_or_distrib_left.symm
      _ = f := BitVec.and_allOnes
  have hlt : f.toNat < 4 := by
    rw [← hlow, BitVec.toNat_and]
    exact Nat.lt_succ_of_le Nat.and_le_right
  have hall : ∀ n < 4, fmtWord (fmtBpp (.ofNat 32 n)) (fmtTopDown (.ofNat 32 n)) = .ofNat 32 n := by decide
  simpa using hall f.toNat hlt

/-- Committing the geometry of the encoded Image puts the Image's own registers back. -/
theorem State.decoded_image {s : State} (u : State) (hw : 0 < s.imgW) (hh : 0 < s.imgH) (hfmt : FmtLegal s.imgFmt) :
    (u.decoded s.encodePlan.geometry).imgWidth = s.imgWidth ∧
      (u.decoded s.encodePlan.geometry).imgHeight = s.imgHeight ∧
      (u.decoded s.encodePlan.geometry).imgFmt = s.imgFmt := by
  refine ⟨?_, ?_, fmtWord_fields hfmt⟩
  · calc BitVec.ofInt 32 (s.imgW.toNat : Int)
      _ = BitVec.ofInt 32 s.imgWidth.toInt := congrArg _ (Int.toNat_of_nonneg hw.le)
      _ = s.imgWidth := BitVec.ofInt_toInt
  · calc BitVec.ofNat 32 s.imgH.toNat
      _ = BitVec.ofInt 32 (s.imgH.toNat : Int) := (BitVec.ofInt_natCast ..).symm
      _ = BitVec.ofInt 32 s.imgHeight.toInt := congrArg _ (Int.toNat_of_nonneg hh.le)
      _ = s.imgHeight := BitVec.ofInt_toInt

/-! ### The file in SRC -/

/-- The copied file parses to the geometry of the encoded Image. -/
theorem parsed_of_copiedBack {s u : State} (hw : 0 < s.imgW) (hh : 0 < s.imgH)
    (hdst : s.encodePlan.fileSize ≤ s.cap .dst) (hcopy : CopiedBack (s.encoded s.encodePlan) u) :
    u.parsed = .ok s.encodePlan.geometry := by
  obtain ⟨hlen, hbytes⟩ := hcopy
  rw [State.encoded_dstLen hdst] at hbytes
  have hheader : SameHeader (u.byteAt .src) s.encodePlan.header := fun i hi =>
    (hbytes i (Nat.lt_add_right _ hi)).trans (s.encoded_header _ i hi)
  rw [State.parsed, hlen, State.encoded_dstLen hdst]
  exact EncodePlan.parse_eq (State.encodePlan_legal hw hh) hheader

/-- A pixel byte goes to the mirror of its row and from there back to its row (R161). -/
theorem State.decoded_encoded_pixel {s u : State} {p : EncodePlan} (hdst : p.fileSize ≤ s.cap .dst)
    (hcopy : CopiedBack (s.encoded p) u) {y j : Nat} (hy : y < p.h) (hj : j < p.rowBytes) :
    (u.decoded p.geometry).byteAt .pix (y * p.rowBytes + j) = s.byteAt .pix (y * p.rowBytes + j) := by
  have hrow : canonicalRow y p.h p.td < p.h := canonicalRow_lt p.td hy
  have hindex := EncodePlan.pixel_lt_fileSize hrow hj
  calc (u.decoded p.geometry).byteAt .pix (y * p.rowBytes + j)
    _ = u.byteAt .src (54 + canonicalRow y p.h p.td * p.stride + j) := u.decoded_pix_row p.geometry hy hj
    _ = (s.encoded p).byteAt .dst (54 + canonicalRow y p.h p.td * p.stride + j) :=
      hcopy.2 _ (by rwa [State.encoded_dstLen hdst])
    _ = s.byteAt .pix (canonicalRow (canonicalRow y p.h p.td) p.h p.td * p.rowBytes + j) := s.encoded_pixel p hrow hj
    _ = s.byteAt .pix (y * p.rowBytes + j) := by rw [canonicalRow_twice p.td hy]

/-- Every byte index of `h` rows of `n` bytes is a byte of one of the rows. -/
theorem exists_row_index {n h i : Nat} (hi : i < h * n) : ∃ y j, y < h ∧ j < n ∧ y * n + j = i :=
  ⟨i / n, i % n, Nat.div_lt_of_lt_mul (Nat.mul_comm .. ▸ hi), Nat.mod_lt _ (Nat.pos_of_lt_mul_left hi),
    Nat.div_add_mod' i n⟩

/-- The bytes of a nonempty Image are those of its plan's rows. -/
theorem State.imageBytes_eq_rows {s : State} (hw : 0 < s.imgW) (hh : 0 < s.imgH) :
    s.imageBytes = ((s.encodePlan.h * s.encodePlan.rowBytes : Nat) : Int) := by
  rw [← State.encodePlan_pixelBytes hw hh, EncodePlan.rowBytes, ← Nat.mul_assoc, Nat.mul_comm s.encodePlan.h]

/-- Settles O40: the file has the geometry of its Image, so DECODE puts the Image's registers and, row by row, its
pixel bytes back. -/
theorem decodeInvertsEncodeOfAnImage : Obligations.DecodeInvertsEncodeOfAnImage := by
  rintro s t u ⟨-, -, -, hfmt, -⟩ hexec hdone hcopy
  obtain ⟨hw, hh, hdst, rfl⟩ := encoded_of_done hexec hdone
  have hparsed := parsed_of_copiedBack hw hh hdst hcopy
  obtain ⟨hwidth, hheight, hformat⟩ := State.decoded_image u hw hh hfmt
  refine ⟨u.decoded s.encodePlan.geometry, congrArg _ (State.runDecode_of_ok hparsed), rfl, hwidth.symm, hheight.symm,
    hformat.symm, fun i hi => ?_⟩
  rw [State.imageBytes_eq_rows hw hh, Int.ofNat_lt] at hi
  obtain ⟨y, j, hy, hj, rfl⟩ := exists_row_index hi
  exact (State.decoded_encoded_pixel hdst hcopy hy hj).symm

end Sys2Proof.Machine
end

section
/-! SUPPORT. LINE (R200, R210): what it runs to when its Image does not fit PIX, and otherwise. -/

namespace Sys2Proof.Machine

open Sys2Proof

/-- What a LINE whose check passed leaves: the loop's effect on PIX, and STATUS (R200, R204). -/
def State.afterLine (s : State) : State :=
  (s.withPix (s.lineSetup.loop s.lineSetup.count s.lineSetup.start s.pix)).complete

theorem State.runLine_of_tooBig {s : State} (h : s.lineTooBig) : s.runLine = s.raise .capacity := if_pos h

theorem State.runLine_of_fits {s : State} (h : ¬ s.lineTooBig) : s.runLine = s.afterLine := if_neg h

/-- Settles O43: the statement's product is that of the capacity check, whose two answers are its two cases. -/
theorem lineCapacityCheck : Obligations.LineCapacityCheck := by
  intro s
  rw [← s.imageBytes_eq_ite]
  refine ⟨fun hw hh hbig => ?_, fun hfits => ?_⟩
  · exact congrArg _ (State.runLine_of_tooBig ⟨hw, hh, hbig⟩)
  · exact ⟨s.afterLine, congrArg _ (State.runLine_of_fits hfits), rfl⟩

end Sys2Proof.Machine
end

section
/-! SUPPORT. The registers as the host sees them (R21, R221): which number is which register, what a read of one
answers, and what a write to one stores, runs or ignores. -/

namespace Sys2Proof.Machine

open Sys2Proof

/-! ### Register numbers -/

/-- The registers in the order of their numbers, 0 to 19 (R21). -/
def registers : List RegName :=
  [.cmd, .status, .srcLen, .imgWidth, .imgHeight, .imgFmt, .lineX0, .lineY0, .lineX1, .lineY1, .rowStride, .pOffset,
    .pDibsize, .pWidth, .pHeight, .pBitcnt, .dstLen, .capSrc, .capPix, .capDst]

theorem eq_addrOfReg_of_regOfAddr {a : Word} {r : RegName} (h : regOfAddr a = some r) : a = addrOfReg r := by
  rw [regOfAddr] at h
  split at h <;> cases h <;> exact BitVec.eq_of_toNat_eq ‹_›

theorem addrOfReg_lt (r : RegName) : (addrOfReg r).toNat < 20 := by cases r <;> decide

/-- The numbers from 20 on are reserved (R21, R106). -/
theorem regOfAddr_reserved {a : Word} (h : 20 ≤ a.toNat) : regOfAddr a = none := by
  cases hreg : regOfAddr a with
  | none => rfl
  | some r => exact absurd (eq_addrOfReg_of_regOfAddr hreg ▸ addrOfReg_lt r) (Nat.not_lt.mpr h)

/-- A read of a reserved number answers 0 and changes nothing else (R221). -/
theorem exec_rreg_reserved (s : State) {a : Word} (h : 20 ≤ a.toNat) :
    exec (.rreg a) s = .next { s with rdata := 0#32 } := by
  rw [exec_rreg, State.hostRegRead, regOfAddr_reserved h, State.answer]

/-! ### What a write stores -/

/-- The smaller of the word and SRC_CAP is one of the two words (R24). -/
theorem srcLenValue_eq_ite (s : State) (v : Word) :
    srcLenValue s v = if v.toNat ≤ s.capSrc.toNat then v else s.capSrc := by
  rw [srcLenValue, Nat.min_def, apply_ite (BitVec.ofNat 32), BitVec.ofNat_toNat, BitVec.ofNat_toNat,
    BitVec.setWidth_eq, BitVec.setWidth_eq]

/-- Keeping bits 1:0 is masking with 3 (R27). -/
theorem imgFmtValue_eq_and (v : Word) : imgFmtValue v = v &&& 3#32 := by
  apply BitVec.eq_of_toNat_eq
  calc (imgFmtValue v).toNat
    _ = v.toNat % 4 := by
      simp only [imgFmtValue, BitVec.truncate_eq_setWidth, BitVec.toNat_setWidth, BitVec.extractLsb_toNat,
        Nat.shiftRight_zero]
      omega
    _ = (v &&& 3#32).toNat := (Nat.and_two_pow_sub_one_eq_mod v.toNat 2).symm

/-- Writes to STATUS, to the read-only registers 10 to 19 and to a reserved number are ignored (R38, R221). -/
theorem State.hostRegWrite_ignored (s : State) (v : Word) {a : Word} (h : a = 1#32 ∨ 10 ≤ a.toNat) :
    s.hostRegWrite a v = s := by
  rw [State.hostRegWrite]
  cases hreg : regOfAddr a with
  | none => rfl
  | some r =>
    rw [eq_addrOfReg_of_regOfAddr hreg] at h
    cases r with
    | cmd | srcLen | imgWidth | imgHeight | imgFmt | lineX0 | lineY0 | lineX1 | lineY1 => exact absurd h (by decide)
    | _ => rfl

/-! ### Writes to CMD -/

/-- A write of a command word to CMD is that command (R22). -/
theorem exec_wreg_cmd_of_ok (s : State) {v : Word} {c : Command} (h : decodeCmd v = .ok c) :
    exec (.wreg 0#32 v) s = exec (cmdInstr c) s := by
  have hwrite : s.writeCmd v = s.runCommand c := by rw [State.writeCmd, h]
  rw [exec_cmdInstr, ← hwrite]
  rfl

/-- A write of any other word to CMD sets STATUS to 0x000000A6, the word of IllegalCommand, and nothing else
(R93, R249). -/
theorem exec_wreg_cmd_of_error (s : State) {v : Word} {e : Error} (h : decodeCmd v = .error e) :
    exec (.wreg 0#32 v) s = .next { s with status := 0x000000A6#32 } := by
  rcases s.writeCmd_cases v with ⟨c, hok, -⟩ | ⟨-, hwrite⟩
  · cases hok.symm.trans h
  · exact congrArg _ hwrite

/-- Settles O13: each register number is the number of a register, whose read and write rules answer, or is reserved. -/
theorem registerReadsAndWrites : Obligations.RegisterReadsAndWrites := by
  refine fun s => ⟨?_, fun a h => exec_rreg_reserved s h, fun v =>
    ⟨?_, rfl, rfl, ?_, rfl, rfl, rfl, rfl, ?_, fun c => exec_wreg_cmd_of_ok s, fun e => exec_wreg_cmd_of_error s⟩⟩
  · show ∀ p ∈ registers.map fun r => (addrOfReg r, s.readReg r), exec (.rreg p.1) s = .next { s with rdata := p.2 }
    exact List.forall_mem_map.mpr fun r _ => exec_rreg_addrOfReg r s
  · rw [← srcLenValue_eq_ite]
    rfl
  · rw [← imgFmtValue_eq_and]
    rfl
  · intro a h
    rw [exec_wreg, s.hostRegWrite_ignored v h]

end Sys2Proof.Machine
end

section
/-! SUPPORT. The buffers as the host sees them (R62, R222 to R227): a read answers one byte, a write below the capacity
makes one byte, a write from there on is ignored. -/

namespace Sys2Proof.Machine

open Sys2Proof

/-- What a byte reads as after one byte of its memory is written, whatever unwritten bytes read as (R47). -/
theorem Memory.getD_get?_set (m : Memory) (a : Nat) (v : Byte) (j : Nat) (free : Byte) :
    ((m.set a v).get? j).getD free = if j = a then v else (m.get? j).getD free := by
  rw [Memory.get?_set]
  split <;> rfl

theorem State.byteAt_src_set (s : State) (a : Nat) (v : Byte) (j : Nat) :
    (s.withSrc (s.src.set a v)).byteAt .src j = if j = a then v else s.byteAt .src j :=
  Memory.getD_get?_set ..

theorem State.byteAt_pix_set (s : State) (a : Nat) (v : Byte) (j : Nat) :
    (s.withPix (s.pix.set a v)).byteAt .pix j = if j = a then v else s.byteAt .pix j :=
  Memory.getD_get?_set ..

/-- Settles O16: below the capacity the write is one `Memory.set` of its buffer, from there on nothing. -/
theorem bufferWrites : Obligations.BufferWrites := by
  refine fun s i b => ⟨⟨_, exec_wsrc i b s, ?_, fun hlt j => ?_, fun hge => if_neg (Nat.not_lt.mpr hge)⟩,
    ⟨_, exec_wpix i b s, ?_, fun hlt j => ?_, fun hge => if_neg (Nat.not_lt.mpr hge)⟩⟩
  · split <;> rfl
  · rw [if_pos (show i.toNat < s.cap .src from hlt), State.byteAt_src_set]
  · split <;> rfl
  · rw [if_pos (show i.toNat < s.cap .pix from hlt), State.byteAt_pix_set]

/-- Settles O15: the statement's answers are `hostByteRead` at the capacity of each buffer. -/
theorem bufferReadsAndIgnoredDstWrites : Obligations.BufferReadsAndIgnoredDstWrites :=
  fun s i => ⟨exec_rsrc i s, exec_rpix i s, exec_rdst i s, fun b => exec_wdst i b s⟩

end Sys2Proof.Machine
end

section
/-! SUPPORT. Host operations and commands as steps: a pending one is executed (R71, R220), and each one completes. -/

namespace Sys2Proof.Machine

open Sys2Proof

/-- Settles O1: taking the oldest event off the inbox leaves the rest of it. -/
theorem stepRunsDecodedOperation : Obligations.StepRunsDecodedOperation := by
  intro s t rest h
  rw [step_op h, State.pop, h, List.tail_cons]

/-- Settles O18: each of the twelve meanings answers a next state. -/
theorem everyInstructionCompletes : Obligations.EveryInstructionCompletes := by
  intro i s
  cases i <;> exact ⟨_, rfl⟩

end Sys2Proof.Machine
end

section
/-! SUPPORT. How commands complete (R22, R249, R251, R252): with STATUS 2, or with the STATUS word of an error that the
command can raise and nothing else changed. -/

namespace Sys2Proof.Machine

open Sys2Proof

/-- `t` is `s` with STATUS at the word of an error that command `c` can raise, and nothing else changed (R252). -/
def FailedAs (c : Command) (s t : State) : Prop := ∃ e : Error, raisedBy c e = true ∧ t = s.raise e

/-- What `parse` answers can be raised by the two commands that run it (R241). -/
theorem raisedBy_of_parse_error {S : Nat → Byte} {L : Nat} {e : Error} (h : parse S L = .error e) :
    raisedBy .parse e = true ∧ raisedBy .decode e = true := by
  obtain ⟨himage, hcap, hcmd⟩ := parse_error h
  simp only [raisedBy, bne_iff_ne, Bool.and_eq_true, and_self]
  exact ⟨⟨himage, hcap⟩, hcmd⟩

/-- Every command runs to completion without error or to the raise of one of its errors. -/
theorem State.runCommand_completes (s : State) (c : Command) :
    (s.runCommand c).status = statusDone ∨ FailedAs c s (s.runCommand c) := by
  cases c with
  | parse =>
    rcases s.runParse_cases with ⟨e, herr, h⟩ | ⟨g, -, h⟩
    · exact .inr ⟨e, (raisedBy_of_parse_error herr).1, h⟩
    · exact .inl (congrArg State.status h)
  | decode =>
    rcases s.runDecode_cases with ⟨e, herr, h⟩ | ⟨g, -, h⟩
    · exact .inr ⟨e, (raisedBy_of_parse_error herr).2, h⟩
    · exact .inl (congrArg State.status h)
  | encode =>
    rcases s.runEncode_cases with ⟨e, rfl | rfl, -, h⟩ | ⟨-, -, -, -, -, h⟩
    · exact .inr ⟨.invalidImage, rfl, h⟩
    · exact .inr ⟨.capacity, rfl, h⟩
    · exact .inl (congrArg State.status h)
  | line =>
    rcases s.runLine_cases with ⟨-, h⟩ | ⟨-, h⟩
    · exact .inr ⟨.capacity, rfl, h⟩
    · exact .inl (congrArg State.status h)

/-- Settles O24: each command runs to STATUS 2 or to a raise, which writes STATUS alone. -/
theorem errorsChangeStatusOnly : Obligations.ErrorsChangeStatusOnly := by
  refine fun c s => ⟨s.runCommand c, exec_cmdInstr c s, (s.runCommand_completes c).imp_right ?_⟩
  rintro ⟨e, hraised, h⟩
  exact ⟨e, hraised, by rw [h, State.raise, statusError_eq_ofNat]⟩

/-- Settles O14: a word is a command's exactly when it decodes to it, and decoding decides what the write to CMD does. -/
theorem cmdWriteRunsCommand : Obligations.CmdWriteRunsCommand :=
  fun s _ => ⟨fun _ hw => exec_wreg_cmd_of_ok s (decodeCmd_eq_ok_iff.mpr hw),
    fun hne => exec_wreg_cmd_of_error s (decodeCmd_of_ne_cmdWord hne)⟩

end Sys2Proof.Machine
end

section
/-! SUPPORT. When `parse` raises each error (R243 to R248): a table of checks answers an error at a check that raises it
and that no earlier check of another kind precedes, and the checks of `parse` are five on the headers' extent followed by
five on the fields (R254). -/

namespace Sys2Proof.Machine

open Sys2Proof

/-! ### When a table of checks answers an error -/

/-- An error that no check of the table raises is not its answer. -/
theorem afterChecks_ne_error {checks : List (Bool × Error)} {e : Error} (h : ∀ c ∈ checks, c.2 ≠ e) (g : Geometry) :
    afterChecks checks g ≠ .error e := by
  rw [afterChecks]
  cases hfind : checks.find? (fun c => c.1) with
  | none => nofun
  | some c => exact fun hc => h c (List.mem_of_find?_eq_some hfind) (Except.error.inj hc)

/-- A check that raises `e` and the checks after it are alternatives. -/
theorem afterChecks_eq_error_iff_of_same (p : Prop) [Decidable p] (e : Error) (rest : List (Bool × Error))
    (g : Geometry) : afterChecks ((decide p, e) :: rest) g = .error e ↔ p ∨ afterChecks rest g = .error e := by
  rw [afterChecks_cons]
  by_cases hp : p
  · exact iff_of_true (if_pos hp) (.inl hp)
  · rw [if_neg hp, or_iff_right hp]

/-- A check of another kind has to pass for `e` to be answered. -/
theorem afterChecks_eq_error_iff_of_ne (p : Prop) [Decidable p] {k e : Error} (h : k ≠ e)
    (rest : List (Bool × Error)) (g : Geometry) :
    afterChecks ((decide p, k) :: rest) g = .error e ↔ ¬ p ∧ afterChecks rest g = .error e := by
  rw [afterChecks_cons]
  by_cases hp : p
  · rw [if_pos hp]
    exact iff_of_false (fun hk => h (Except.error.inj hk)) fun hpass => hpass.1 hp
  · rw [if_neg hp, and_iff_right hp]

/-! ### The checks on the headers' extent -/

/-- The file starts with "BM" (R244). -/
abbrev HasMagic (S : Nat → Byte) : Prop := S 0 = 0x42#8 ∧ S 1 = 0x4D#8

/-- The checks on the headers' extent, steps 1 and 2 of R141, all pass. -/
abbrev HasHeader (S : Nat → Byte) (L : Nat) : Prop := HasMagic S ∧ 40 ≤ u32le S 14 ∧ 14 + u32le S 14 ≤ L

/-- The checks on the fields, steps 3 to 5 of R141: the last five of R254's table. -/
def fieldChecks (S : Nat → Byte) (L : Nat) : List (Bool × Error) := (parseChecks S L).drop 5

theorem parseChecks_eq (S : Nat → Byte) (L : Nat) :
    parseChecks S L =
      (decide (L < 14), .truncated) :: (decide (¬ HasMagic S), .notABmp) :: (decide (L < 18), .truncated) ::
        (decide (L < 14 + u32le S 14 ∨ L < 14 + 4), .truncated) :: (decide (u32le S 14 < 40), .unsupportedHeader) ::
          fieldChecks S L := rfl

/-- NotABmp needs the two bytes to lie in the buffer and to be other than "BM" (R244). -/
theorem parse_eq_notABmp_iff {S : Nat → Byte} {L : Nat} :
    parse S L = .error .notABmp ↔ 14 ≤ L ∧ ¬ HasMagic S := by
  rw [parse_eq_afterChecks, parseChecks_eq, afterChecks_eq_error_iff_of_ne _ (by decide), not_lt,
    afterChecks_eq_error_iff_of_same, or_iff_left (afterChecks_ne_error (by simp [fieldChecks, parseChecks]) _)]

/-- UnsupportedHeader needs the whole information header to lie in the buffer (R245). -/
theorem parse_eq_unsupportedHeader_iff {S : Nat → Byte} {L : Nat} :
    parse S L = .error .unsupportedHeader ↔ 18 ≤ L ∧ HasMagic S ∧ 14 + u32le S 14 ≤ L ∧ u32le S 14 < 40 := by
  rw [parse_eq_afterChecks, parseChecks_eq, afterChecks_eq_error_iff_of_ne _ (by decide),
    afterChecks_eq_error_iff_of_ne _ (by decide), afterChecks_eq_error_iff_of_ne _ (by decide),
    afterChecks_eq_error_iff_of_ne _ (by decide), afterChecks_eq_error_iff_of_same,
    or_iff_left (afterChecks_ne_error (by simp [fieldChecks, parseChecks]) _), not_not]
  constructor
  · rintro ⟨-, hmagic, hlen, hextent, hdib⟩
    exact ⟨by omega, hmagic, by omega, hdib⟩
  · rintro ⟨hlen, hmagic, hextent, hdib⟩
    exact ⟨by omega, hmagic, by omega, by omega, hdib⟩

/-- Truncated is answered for the file header, for the information header, or by the checks on the fields (R243). -/
theorem parse_eq_truncated_iff {S : Nat → Byte} {L : Nat} :
    parse S L = .error .truncated ↔ L < 14 ∨ (HasMagic S ∧ (L < 18 ∨ L < 14 + u32le S 14)) ∨
      (HasHeader S L ∧ afterChecks (fieldChecks S L) (geometryOf S) = .error .truncated) := by
  rw [parse_eq_afterChecks, parseChecks_eq, afterChecks_eq_error_iff_of_same,
    afterChecks_eq_error_iff_of_ne _ (by decide), afterChecks_eq_error_iff_of_same, afterChecks_eq_error_iff_of_same,
    afterChecks_eq_error_iff_of_ne _ (by decide), not_not, HasHeader, and_assoc (a := HasMagic S),
    ← and_or_left]
  refine or_congr_right (and_congr_right fun _ => ?_)
  by_cases hshort : L < 18 ∨ L < 14 + u32le S 14
  · exact iff_of_true (by omega) (.inl hshort)
  · rw [or_iff_right hshort, ← or_assoc, or_iff_right (by omega)]
    exact and_congr_left fun _ => by omega

/-- A kind that no check on the headers' extent raises is the answer of the checks on the fields. -/
theorem parse_eq_error_iff_of_field {S : Nat → Byte} {L : Nat} {e : Error} (htruncated : .truncated ≠ e)
    (hmagic : .notABmp ≠ e) (hheader : .unsupportedHeader ≠ e) :
    parse S L = .error e ↔ HasHeader S L ∧ afterChecks (fieldChecks S L) (geometryOf S) = .error e := by
  rw [parse_eq_afterChecks, parseChecks_eq, afterChecks_eq_error_iff_of_ne _ htruncated,
    afterChecks_eq_error_iff_of_ne _ hmagic, afterChecks_eq_error_iff_of_ne _ htruncated,
    afterChecks_eq_error_iff_of_ne _ htruncated, afterChecks_eq_error_iff_of_ne _ hheader, not_not]
  constructor
  · rintro ⟨-, hm, -, hextent, hdib, hfields⟩
    exact ⟨⟨hm, by omega, by omega⟩, hfields⟩
  · rintro ⟨⟨hm, hdib, hextent⟩, hfields⟩
    exact ⟨by omega, hm, by omega, by omega, by omega, hfields⟩

/-! ### The checks on the fields -/

/-- The stride is the row and its padding to a multiple of 4 (R131). -/
theorem rowStrideOf_eq_add_padding (w bpp : Nat) : rowStrideOf w bpp = w * bpp + (4 - w * bpp % 4) % 4 := by
  rw [rowStrideOf]
  omega

/-- Settles O30: an error is answered where one of its checks fails and those before it of other kinds pass; the checks
on the headers' extent come first, then those on the fields in the order of R254. -/
theorem whenParseRaisesEachError : Obligations.WhenParseRaisesEachError := by
  intro S L
  refine ⟨⟨rfl, rfl, rfl, rfl, rfl, rfl, rfl⟩, parse_eq_notABmp_iff, parse_eq_unsupportedHeader_iff, ?_⟩
  have hdims : i32le S 18 ≤ 0 ∨ i32le S 22 = 0 ↔ ¬ (0 < i32le S 18 ∧ i32le S 22 ≠ 0) := by
    rw [not_and_or, not_lt, not_not]
  have hrows (off w bpp h : Nat) :
      off + rowStrideOf w bpp * h = off + w * bpp * h + (4 - w * bpp % 4) % 4 * h := by
    rw [rowStrideOf_eq_add_padding, Nat.add_mul, Nat.add_assoc]
  rw [parse_eq_truncated_iff]
  simp (disch := decide) only [parse_eq_error_iff_of_field, fieldChecks, parseChecks, List.drop_succ_cons,
    List.drop_zero, afterChecks_eq_error_iff_of_same, afterChecks_eq_error_iff_of_ne, afterChecks_nil, reduceCtorEq,
    and_false, or_false, not_not, hdims, hrows, and_assoc, and_self]

end Sys2Proof.Machine
end

section
/-! SUPPORT. The facts about a successful parse (R146): the ranges of the record's components and the place of the rows in
the file. -/

namespace Sys2Proof.Machine

open Sys2Proof

/-- A row has a pixel byte and its stride is a multiple of 4 (R131). -/
theorem four_le_stride_of_parse_ok {S : Nat → Byte} {L : Nat} {g : Geometry} (h : parse S L = .ok g) :
    4 ≤ g.stride := by
  have hpos := rowBytes_pos_of_parse_ok h
  obtain ⟨rfl, -⟩ := parse_ok h
  have hrow := geometryOf_rowBytes_le S
  have hmul : (geometryOf S).stride % 4 = 0 := (rowStrideOf_bounds _ _).1
  omega

theorem four_mul_absH_le_need_of_parse_ok {S : Nat → Byte} {L : Nat} {g : Geometry} (h : parse S L = .ok g) :
    4 * g.absH ≤ g.need :=
  Nat.mul_le_mul_right _ (four_le_stride_of_parse_ok h)

theorem absH_eq_of_parse_ok {S : Nat → Byte} {L : Nat} {g : Geometry} (h : parse S L = .ok g) :
    g.absH = g.height.natAbs := by
  obtain ⟨rfl, -⟩ := parse_ok h
  rfl

/-- At least one word of pixels follows the pixel offset (R146). -/
theorem off_add_four_le_of_parse_ok {S : Nat → Byte} {L : Nat} {g : Geometry} (h : parse S L = .ok g) :
    g.off + 4 ≤ L := by
  have hneed := four_mul_absH_le_need_of_parse_ok h
  obtain ⟨-, -, -, -, -, -, -, -, -, habsH, hrows⟩ := parse_ok h
  omega

/-- The pixel bytes of all rows, without their padding, fit what follows the pixel offset (R146). -/
theorem off_add_pixelBytes_le_of_parse_ok {S : Nat → Byte} {L : Nat} {g : Geometry} (h : parse S L = .ok g) :
    g.off + g.rowBytes * g.absH ≤ L := by
  obtain ⟨rfl, -, -, -, -, -, -, -, -, -, hrows⟩ := parse_ok h
  have hrow : (geometryOf S).rowBytes * (geometryOf S).absH ≤ (geometryOf S).need :=
    Nat.mul_le_mul_right _ (geometryOf_rowBytes_le S)
  omega

/-- Settles O32: the checks of `parse` bound the fields, and all rows, of at least 4 bytes each, lie in the file. -/
theorem geometryFacts : Obligations.GeometryFacts := by
  intro S L g hL h
  have hoff := off_add_four_le_of_parse_ok h
  have hneed := four_mul_absH_le_need_of_parse_ok h
  have hpixels := off_add_pixelBytes_le_of_parse_ok h
  have habs := absH_eq_of_parse_ok h
  have htd := td_eq_of_parse_ok h
  obtain ⟨rfl, hhead, hdib, -, -, -, hdepth, -, hw, hh, hrows⟩ := parse_ok h
  have hwidth : (geometryOf S).width < 2 ^ 31 := (i32le_range S 18).2
  refine ⟨hoff, hdib, hhead, hw, by omega, by omega, geometryOf_bpp hdepth, by rw [htd, decide_eq_true_iff], hh,
    by rw [habs, Int.natCast_natAbs], by omega, rfl, hrows, ?_⟩
  calc (geometryOf S).width * (geometryOf S).absH * (geometryOf S).bpp
    _ = (((geometryOf S).rowBytes * (geometryOf S).absH : Nat) : Int) := by
      rw [Geometry.rowBytes, Nat.cast_mul, Nat.cast_mul, Int.toNat_of_nonneg hw.le, mul_right_comm]
    _ ≤ L - (geometryOf S).off := by omega

end Sys2Proof.Machine
end

section
/-! SUPPORT. The invariant of every step: that it holds at reset (R7, R47), that each update of the state and each command
keeps it, and so every instruction and every step. -/

namespace Sys2Proof.Machine

open Sys2Proof

/-! ### Its parts -/

theorem bufferOk_empty (n : Nat) : BufferOk Memory.empty n := ⟨Memory.empty_wf, nofun⟩

theorem bufferOk_set {m : Memory} {n a : Nat} (v : Byte) (h : BufferOk m n) (ha : a < n) : BufferOk (m.set a v) n :=
  ⟨Memory.set_wf a v h.1, Memory.set_bound v ha h.2⟩

theorem statusLegal_zero : StatusLegal 0#32 := by decide

theorem statusLegal_done : StatusLegal statusDone := by decide

theorem statusLegal_error (e : Error) : StatusLegal (statusError e) := by cases e <;> decide

theorem fmtLegal_fmtWord {bpp : Nat} (td : Bool) (h : bpp = 3 ∨ bpp = 4) : FmtLegal (fmtWord bpp td) := by
  rcases h with rfl | rfl <;> cases td <;> decide

/-- Bits 31:2 of what a host write puts into IMG_FMT are 0 (R27). -/
theorem fmtLegal_imgFmtValue (v : Word) : FmtLegal (imgFmtValue v) := by
  rw [FmtLegal, imgFmtValue_eq_and, BitVec.and_assoc]
  exact BitVec.and_zero

theorem srcLenValue_le (s : State) (v : Word) : (srcLenValue s v).toNat ≤ s.capSrc.toNat := by
  rw [srcLenValue_eq_ite]
  split
  · assumption
  · exact le_rfl

/-- What a successful PARSE commits is in the ranges of the parse result registers (R31 to R35, R146). -/
theorem parsedLegal_commitParse {s : State} {g : Geometry} (hlen : s.srcLen.toNat ≤ s.capSrc.toNat)
    (h : s.parsed = .ok g) : ParsedLegal (s.commitParse g) := by
  obtain ⟨hoff, hdib, hwidth, hheight, -, -⟩ := s.commitParse_reads s.srcLen.isLt h
  have hoff4 := off_add_four_le_of_parse_ok h
  have habs := absH_eq_of_parse_ok h
  obtain ⟨-, hhead, hdib40, -, -, -, hdepth, -, hw, hh, -⟩ := parse_ok h
  refine .inr ⟨?_, ?_, ?_, ?_, ?_, hdepth.imp (congrArg (BitVec.ofNat 32)) (congrArg (BitVec.ofNat 32))⟩
  · rw [hoff]; exact hoff4.trans hlen
  · rw [hdib]; exact hdib40
  · rw [hdib]; exact hhead.trans hlen
  · rw [hwidth]; exact hw
  · rw [hheight]; omega

theorem StateInv.bufferOk {s : State} (h : StateInv s) (b : Buf) : BufferOk (s.mem b) (s.cap b) := by
  obtain ⟨-, -, -, -, -, -, -, hsrc, hpix, hdst⟩ := h
  cases b
  exacts [hsrc, hpix, hdst]

/-! ### The updates of the state keep it -/

theorem StateInv.complete {s : State} (h : StateInv s) : StateInv s.complete := by
  obtain ⟨hcaps, -, hrest⟩ := h
  exact ⟨hcaps, statusLegal_done, hrest⟩

theorem StateInv.raise {s : State} (h : StateInv s) (e : Error) : StateInv (s.raise e) := by
  obtain ⟨hcaps, -, hrest⟩ := h
  exact ⟨hcaps, statusLegal_error e, hrest⟩

theorem StateInv.commitParse {s : State} {g : Geometry} (h : StateInv s) (hok : s.parsed = .ok g) :
    StateInv (s.commitParse g) := by
  obtain ⟨-, -, -, -, -, hstride⟩ := s.commitParse_reads s.srcLen.isLt hok
  obtain ⟨hcaps, hstatus, hlen, hfmt, -, -, hrest⟩ := h
  refine ⟨hcaps, hstatus, hlen, hfmt, parsedLegal_commitParse hlen hok, ?_, hrest⟩
  obtain ⟨rfl, -⟩ := parse_ok hok
  rw [hstride]
  exact (rowStrideOf_bounds _ _).1

theorem StateInv.commitImage {s : State} {g : Geometry} (h : StateInv s) (hbpp : g.bpp = 3 ∨ g.bpp = 4) :
    StateInv (s.commitImage g) := by
  obtain ⟨hcaps, hstatus, hlen, -, hrest⟩ := h
  exact ⟨hcaps, hstatus, hlen, fmtLegal_fmtWord g.td hbpp, hrest⟩

theorem StateInv.withSrc {s : State} {m : Memory} (h : StateInv s) (hm : BufferOk m (s.cap .src)) :
    StateInv (s.withSrc m) := by
  obtain ⟨hcaps, hstatus, hlen, hfmt, hparsed, hstride, hdstLen, -, hpix, hdst⟩ := h
  exact ⟨hcaps, hstatus, hlen, hfmt, hparsed, hstride, hdstLen, hm, hpix, hdst⟩

theorem StateInv.withPix {s : State} {m : Memory} (h : StateInv s) (hm : BufferOk m (s.cap .pix)) :
    StateInv (s.withPix m) := by
  obtain ⟨hcaps, hstatus, hlen, hfmt, hparsed, hstride, hdstLen, hsrc, -, hdst⟩ := h
  exact ⟨hcaps, hstatus, hlen, hfmt, hparsed, hstride, hdstLen, hsrc, hm, hdst⟩

/-- The reset state with any capacities that keep R7, whatever is pending. -/
theorem stateInv_reset_with {src pix dst : Word}
    (h : 1 ≤ src.toNat ∧ src.toNat ≤ pix.toNat ∧ 54 ≤ dst.toNat) (n : Nat) (inbox : List HostEvent) :
    StateInv { State.reset with capSrc := src, capPix := pix, capDst := dst, resets := n, inbox := inbox } :=
  ⟨h, statusLegal_zero, Nat.zero_le _, BitVec.zero_and, .inl ⟨rfl, rfl, rfl, rfl, rfl⟩, rfl, Nat.zero_le _,
    bufferOk_empty _, bufferOk_empty _, bufferOk_empty _⟩

theorem StateInv.takeReset {s : State} (h : StateInv s) : StateInv s.takeReset := stateInv_reset_with h.1 _ _

/-- The constants of Config keep R7: each is the larger of two words or of a word and its lower bound. -/
theorem config_caps_ok :
    1 ≤ Config.capSrc.toNat ∧ Config.capSrc.toNat ≤ Config.capPix.toNat ∧ 54 ≤ Config.capDst.toNat := by
  have hmax {a : Nat} (w : Word) (ha : a < 2 ^ 32) : (BitVec.ofNat 32 (max a w.toNat)).toNat = max a w.toNat :=
    toNat_ofNat_word (Nat.max_lt.mpr ⟨ha, w.isLt⟩)
  have hsrc : Config.capSrc.toNat = max 1 Config.capSeed.1.toNat := hmax _ (by decide)
  have hpix : Config.capPix.toNat = max Config.capSrc.toNat Config.capSeed.2.1.toNat := hmax _ Config.capSrc.isLt
  have hdst : Config.capDst.toNat = max 54 Config.capSeed.2.2.toNat := hmax _ (by decide)
  omega

/-- Settles O5: the capacities of Config keep R7, and everything else of the reset state is 0 or unwritten. -/
theorem invariantAtReset : Obligations.InvariantAtReset := stateInv_reset_with config_caps_ok 0 []

/-! ### The commands keep it -/

theorem StateInv.runParse {s : State} (h : StateInv s) : StateInv s.runParse := by
  rcases s.runParse_cases with ⟨e, -, hrun⟩ | ⟨g, hok, hrun⟩ <;> rw [hrun]
  · exact h.raise e
  · exact (h.commitParse hok).complete

/-- The rows fit PIX, since their file fits SRC and SRC_CAP ≤ PIX_CAP (R7, R163). -/
theorem StateInv.runDecode {s : State} (h : StateInv s) : StateInv s.runDecode := by
  rcases s.runDecode_cases with ⟨e, -, hrun⟩ | ⟨g, hok, hrun⟩ <;> rw [hrun]
  · exact h.raise e
  · have hcommit := (h.commitParse hok).commitImage (bpp_of_parse_ok hok)
    have hpix := h.bufferOk .pix
    obtain ⟨⟨-, hcaps, -⟩, -, hlen, -⟩ := h
    have hfit : g.absH * g.rowBytes ≤ s.cap .pix := ((pixelBytes_le_of_parse_ok hok).trans hlen).trans hcaps
    exact (hcommit.withPix (rowsIn_ok _ g hfit hpix)).complete

/-- The file fits DST (R181, R185). -/
theorem StateInv.encoded {s : State} (h : StateInv s) (hdst : s.encodePlan.fileSize ≤ s.cap .dst) :
    StateInv (s.encoded s.encodePlan) := by
  have hlen := State.encoded_dstLen hdst
  have hmul : s.encodePlan.stride % 4 = 0 := (rowStrideOf_bounds _ _).1
  obtain ⟨⟨hcapSrc, hcapPix, hcapDst⟩, -, hsrcLen, hfmt, hparsed, -, -, hsrc, hpix, hdstOk⟩ := h
  refine ⟨⟨hcapSrc, hcapPix, hcapDst⟩, statusLegal_done, hsrcLen, hfmt, hparsed, ?_, hlen.trans_le hdst, hsrc, hpix,
    rowsOut_ok _ _ hdst (emitHeaders_ok _ hcapDst hdstOk)⟩
  calc (BitVec.ofNat 32 s.encodePlan.stride).toNat % 4
    _ = s.encodePlan.stride % 2 ^ 32 % 4 := by rw [BitVec.toNat_ofNat]
    _ = 0 := by omega

theorem StateInv.runEncode {s : State} (h : StateInv s) : StateInv s.runEncode := by
  rcases s.runEncode_cases with ⟨e, -, -, hrun⟩ | ⟨-, -, -, -, hdst, hrun⟩ <;> rw [hrun]
  · exact h.raise e
  · exact h.encoded hdst

/-- The Image of a LINE that raises no Capacity fits PIX, unless its window is empty (R206, R210). -/
theorem State.window_le_of_fits {s : State} (h : ¬ s.lineTooBig) (hw : 0 < s.imgW) (hh : 0 < s.imgH) :
    s.imgW.toNat * s.imgH.toNat * s.bpp ≤ s.cap .pix := by
  have hbytes : ((s.imgW.toNat * s.imgH.toNat * s.bpp : Nat) : Int) = s.imageBytes := State.encodePlan_pixelBytes hw hh
  have hfit : s.imageBytes ≤ s.cap .pix := not_lt.mp fun hbig => h ⟨hw, hh, hbig⟩
  omega

theorem StateInv.runLine {s : State} (h : StateInv s) : StateInv s.runLine := by
  rcases s.runLine_cases with ⟨-, hrun⟩ | ⟨hfits, hrun⟩ <;> rw [hrun]
  · exact h.raise .capacity
  · have hpix := s.lineSetup.loop_ok s.lineSetup.count s.lineSetup.start (fmtBpp_eq s.imgFmt)
      (State.window_le_of_fits hfits) (h.bufferOk .pix)
    exact (h.withPix hpix).complete

theorem StateInv.runCommand {s : State} (h : StateInv s) : ∀ c : Command, StateInv (s.runCommand c)
  | .parse => h.runParse
  | .decode => h.runDecode
  | .encode => h.runEncode
  | .line => h.runLine

theorem StateInv.writeCmd {s : State} (h : StateInv s) (w : Word) : StateInv (s.writeCmd w) := by
  rcases s.writeCmd_cases w with ⟨c, -, hrun⟩ | ⟨-, hrun⟩ <;> rw [hrun]
  · exact h.runCommand c
  · exact h.raise .illegalCommand

/-! ### Instructions and steps keep it -/

/-- Only CMD, SRC_LEN and IMG_FMT are written with something the invariant speaks of. -/
theorem StateInv.hostRegWrite {s : State} (h : StateInv s) (a v : Word) : StateInv (s.hostRegWrite a v) := by
  rw [State.hostRegWrite]
  cases regOfAddr a with
  | none => exact h
  | some r =>
    cases r with
    | cmd => exact h.writeCmd v
    | srcLen =>
      obtain ⟨hcaps, hstatus, -, hrest⟩ := h
      exact ⟨hcaps, hstatus, srcLenValue_le s v, hrest⟩
    | imgFmt =>
      obtain ⟨hcaps, hstatus, hlen, -, hrest⟩ := h
      exact ⟨hcaps, hstatus, hlen, fmtLegal_imgFmtValue v, hrest⟩
    | _ => exact h

theorem StateInv.exec {i : Instr} {s t : State} (h : StateInv s) (hexec : exec i s = .next t) : StateInv t := by
  cases i with
  | parse => exact next_inj hexec ▸ h.runParse
  | decode => exact next_inj hexec ▸ h.runDecode
  | encode => exact next_inj hexec ▸ h.runEncode
  | line => exact next_inj hexec ▸ h.runLine
  | wreg a v => exact next_inj hexec ▸ h.hostRegWrite a v
  | rreg | rsrc | rpix | rdst | wdst => exact next_inj hexec ▸ h
  | wsrc i b =>
    obtain rfl := next_inj hexec
    split
    · next hlt => exact h.withSrc (bufferOk_set b (h.bufferOk .src) hlt)
    · exact h
  | wpix i b =>
    obtain rfl := next_inj hexec
    split
    · next hlt => exact h.withPix (bufferOk_set b (h.bufferOk .pix) hlt)
    · exact h

/-- Settles O6: BRT idles, resets, or executes an instruction on the state without its event, and each keeps it. -/
theorem stepKeepsInvariant : Obligations.StepKeepsInvariant := by
  intro s t h hstep
  have hpop : StateInv s.pop := h
  cases hin : s.inbox with
  | nil => exact next_inj ((step_idle hin).symm.trans hstep) ▸ h
  | cons e rest =>
    cases e with
    | reset => exact next_inj ((step_reset hin).symm.trans hstep) ▸ hpop.takeReset
    | op o => exact hpop.exec ((step_op hin).symm.trans hstep)

end Sys2Proof.Machine
end

section
/-! SUPPORT. The encoder and the decoder of host transactions (R91, R106) are inverse to each other. -/

namespace Sys2Proof.Machine

open Sys2Proof

/-! ### The decoder, by space and write -/

theorem decodeRegWrite_cmdWord (c : Command) : decodeRegWrite 0#32 (cmdWord c) = cmdInstr c := by
  rw [decodeRegWrite, if_pos rfl, decodeCmd_cmdWord]

/-- A register write that is no command's stays a register write (R92, R93). -/
theorem decodeRegWrite_of_ne {a v : Word} (h : ¬ (a = 0#32 ∧ ∃ c, v = cmdWord c)) : decodeRegWrite a v = .wreg a v := by
  rw [decodeRegWrite]
  split
  · next ha => rw [decodeCmd_of_ne_cmdWord fun c hc => h ⟨ha, c, hc⟩]
  · rfl

@[simp] theorem decodeOp_rreg (a v : Word) : decodeOp ⟨0#2, false, a, v⟩ = .rreg a := rfl
@[simp] theorem decodeOp_regWrite (a v : Word) : decodeOp ⟨0#2, true, a, v⟩ = decodeRegWrite a v := rfl
@[simp] theorem decodeOp_rsrc (a v : Word) : decodeOp ⟨1#2, false, a, v⟩ = .rsrc a := rfl
@[simp] theorem decodeOp_wsrc (a v : Word) : decodeOp ⟨1#2, true, a, v⟩ = .wsrc a (byteOperand v) := rfl
@[simp] theorem decodeOp_rpix (a v : Word) : decodeOp ⟨2#2, false, a, v⟩ = .rpix a := rfl
@[simp] theorem decodeOp_wpix (a v : Word) : decodeOp ⟨2#2, true, a, v⟩ = .wpix a (byteOperand v) := rfl
@[simp] theorem decodeOp_rdst (a v : Word) : decodeOp ⟨3#2, false, a, v⟩ = .rdst a := rfl
@[simp] theorem decodeOp_wdst (a v : Word) : decodeOp ⟨3#2, true, a, v⟩ = .wdst a (byteOperand v) := rfl

theorem encode_cmdInstr (c : Command) : encode (cmdInstr c) = ⟨0#2, true, 0#32, cmdWord c⟩ := by cases c <;> rfl

/-- The two-bit space is one of the four of R106. -/
theorem space_cases (sp : BitVec 2) : sp = 0#2 ∨ sp = 1#2 ∨ sp = 2#2 ∨ sp = 3#2 := by
  revert sp
  decide

/-! ### Command words and byte operands -/

/-- The words of R91 are 1 to 4. -/
theorem isCommandWord_iff {v : Word} : isCommandWord v ↔ ∃ c : Command, v = cmdWord c := by
  constructor
  · rintro ⟨hlo, hhi⟩
    have hv : v = 1#32 ∨ v = 2#32 ∨ v = 3#32 ∨ v = 4#32 := by bv_omega
    rcases hv with rfl | rfl | rfl | rfl
    exacts [⟨.parse, rfl⟩, ⟨.decode, rfl⟩, ⟨.encode, rfl⟩, ⟨.line, rfl⟩]
  · rintro ⟨c, rfl⟩
    cases c <;> decide

theorem wellFormed_cmdInstr (c : Command) : WellFormed (cmdInstr c) := by cases c <;> trivial

theorem byteOperand_eq_setWidth (v : Word) : byteOperand v = v.setWidth 8 := by
  apply BitVec.eq_of_toNat_eq
  rw [byteOperand, BitVec.extractLsb_toNat, BitVec.toNat_setWidth]
  rfl

/-- The data word of a byte carries that byte. -/
@[simp] theorem byteOperand_zeroExtend (b : Byte) : byteOperand (b.zeroExtend 32) = b := by
  rw [byteOperand_eq_setWidth, BitVec.zeroExtend, BitVec.setWidth_setWidth_of_le b (by decide), BitVec.setWidth_eq]

/-- The data word of a byte operand has wdata[31:8] cleared (R106). -/
theorem zeroExtend_byteOperand (v : Word) : (byteOperand v).zeroExtend 32 = v &&& 0xFF#32 := by
  apply BitVec.eq_of_toNat_eq
  have hv : v.toNat % 2 ^ 8 < 2 ^ 32 := (Nat.mod_lt _ (by decide)).trans (by decide)
  rw [byteOperand_eq_setWidth, BitVec.zeroExtend, BitVec.toNat_setWidth, BitVec.toNat_setWidth, Nat.mod_eq_of_lt hv]
  exact (Nat.and_two_pow_sub_one_eq_mod v.toNat 8).symm

/-! ### The two directions -/

/-- Settles O9: a command's word decodes to its command, a byte is the operand of its own data word, and a well-formed
register write is no command's. -/
theorem decodeInvertsEncode : Obligations.DecodeInvertsEncode := by
  intro i hwf
  cases i with
  | parse => exact decodeRegWrite_cmdWord .parse
  | decode => exact decodeRegWrite_cmdWord .decode
  | encode => exact decodeRegWrite_cmdWord .encode
  | line => exact decodeRegWrite_cmdWord .line
  | wreg a v => exact decodeRegWrite_of_ne fun h => hwf ⟨h.1, isCommandWord_iff.mpr h.2⟩
  | rreg | rsrc | rpix | rdst => rfl
  | wsrc i b | wpix i b | wdst i b =>
    simp only [encode, decodeOp_wsrc, decodeOp_wpix, decodeOp_wdst, byteOperand_zeroExtend]

/-- A register write decodes to its one spelling, and back to itself. -/
theorem encode_decodeRegWrite (a v : Word) :
    WellFormed (decodeRegWrite a v) ∧ encode (decodeRegWrite a v) = ⟨0#2, true, a, v⟩ := by
  by_cases h : a = 0#32 ∧ ∃ c, v = cmdWord c
  · obtain ⟨rfl, c, rfl⟩ := h
    rw [decodeRegWrite_cmdWord]
    exact ⟨wellFormed_cmdInstr c, encode_cmdInstr c⟩
  · rw [decodeRegWrite_of_ne h]
    exact ⟨fun hw => h ⟨hw.1, isCommandWord_iff.mp hw.2⟩, rfl⟩

/-- Settles O10: by the space and write of the transaction; a read's encoding has data 0, a buffer write's its byte. -/
theorem encodeInvertsDecode : Obligations.EncodeInvertsDecode := by
  rintro ⟨sp, write, a, v⟩
  rcases space_cases sp with rfl | rfl | rfl | rfl <;> cases write
  case inl.true => exact encode_decodeRegWrite a v
  case inl.false | inr.inl.false | inr.inr.inl.false | inr.inr.inr.false => exact ⟨trivial, rfl⟩
  all_goals exact ⟨trivial, congrArg (HostOp.mk _ true a) (zeroExtend_byteOperand v)⟩

/-- Settles O11: the decoder by space and write, a register write being a command exactly when its address is 0 and its
word is the command's; the table words and transactions are evaluated. -/
theorem sampleWordsDecode : Obligations.SampleWordsDecode := by
  refine ⟨fun a v =>
    ⟨decodeOp_rreg a v, ?_, decodeOp_rsrc a v, ?_, decodeOp_rpix a v, ?_, decodeOp_rdst a v, ?_⟩, by decide⟩
  · rw [decodeOp_regWrite]
    split_ifs with hparse hdecode hencode hline
    · exact hparse.1 ▸ hparse.2 ▸ decodeRegWrite_cmdWord .parse
    · exact hdecode.1 ▸ hdecode.2 ▸ decodeRegWrite_cmdWord .decode
    · exact hencode.1 ▸ hencode.2 ▸ decodeRegWrite_cmdWord .encode
    · exact hline.1 ▸ hline.2 ▸ decodeRegWrite_cmdWord .line
    · refine decodeRegWrite_of_ne ?_
      rintro ⟨ha, _ | _ | _ | _, hv⟩
      exacts [hparse ⟨ha, hv⟩, hdecode ⟨ha, hv⟩, hencode ⟨ha, hv⟩, hline ⟨ha, hv⟩]
  all_goals exact congrArg _ (byteOperand_eq_setWidth v)

/-! ### Table rows as words (log entry 15) -/

/-- A table row's word decodes to the instruction of the transaction it stands for. -/
theorem decodeTableWord_eq_some {nbits w : Nat} {i : Instr} (h : decodeTableWord nbits w = some i) :
    ∃ t, tableOp nbits w = some t ∧ decodeOp t = i := by
  rw [decodeTableWord] at h
  split at h
  · next hbits =>
    split at h
    · next hw =>
      refine ⟨commandOp (BitVec.ofNat 32 w), by rw [tableOp, if_pos hbits, if_pos hw], ?_⟩
      split at h
      · next c hc =>
        cases h
        rw [decodeCmd_eq_ok_iff.mp hc]
        exact decodeRegWrite_cmdWord c
      · cases h
    · cases h
  · exact Option.map_eq_some_iff.mp h

/-- The pushed transaction is taken off again before it is executed. -/
theorem step_push (s : State) (t : HostOp) : step (s.push t) = exec (decodeOp t) s := step_op rfl

/-- Settles O12: the word's transaction becomes the oldest event, and it decodes to the word's instruction. -/
theorem fetchedTableWordRuns : Obligations.FetchedTableWordRuns := by
  intro s nbits w i h
  obtain ⟨t, ht, rfl⟩ := decodeTableWord_eq_some h
  rw [State.withFetchWord, State.pushTableWord, ht]
  exact step_push s t

end Sys2Proof.Machine
end

section
/-! SUPPORT. Frames: what each command leaves unchanged (R45, R46), which instructions change STATUS or a buffer (R23, R42
to R44), that commands keep ImageValid (R48), and that host writes to different bytes commute (R72). -/

namespace Sys2Proof.Machine

open Sys2Proof

/-! ### The frames of the commands -/

/-- What command `c` leaves of `s` in `t`, with or without an error (R45, R46). -/
abbrev CommandFrame (c : Command) (s t : State) : Prop :=
  (t.src = s.src ∧ t.srcLen = s.srcLen ∧ t.lineX0 = s.lineX0 ∧ t.lineY0 = s.lineY0 ∧ t.lineX1 = s.lineX1 ∧
    t.lineY1 = s.lineY1 ∧ t.capSrc = s.capSrc ∧ t.capPix = s.capPix ∧ t.capDst = s.capDst ∧
    t.resets = s.resets ∧ t.inbox = s.inbox ∧ t.rdata = s.rdata) ∧
  (c ≠ .decode → t.imgWidth = s.imgWidth ∧ t.imgHeight = s.imgHeight ∧ t.imgFmt = s.imgFmt) ∧
  (c ≠ .parse → c ≠ .decode → t.pOffset = s.pOffset ∧ t.pDibsize = s.pDibsize ∧ t.pWidth = s.pWidth ∧
    t.pHeight = s.pHeight ∧ t.pBitcnt = s.pBitcnt) ∧
  (c ≠ .encode → t.dst = s.dst ∧ t.dstLen = s.dstLen) ∧
  (c = .parse ∨ c = .encode → t.pix = s.pix) ∧
  (c = .line → t.rowStride = s.rowStride)

theorem commandFrame_raise (c : Command) (s : State) (e : Error) : CommandFrame c s (s.raise e) :=
  ⟨⟨rfl, rfl, rfl, rfl, rfl, rfl, rfl, rfl, rfl, rfl, rfl, rfl⟩, fun _ => ⟨rfl, rfl, rfl⟩,
    fun _ _ => ⟨rfl, rfl, rfl, rfl, rfl⟩, fun _ => ⟨rfl, rfl⟩, fun _ => rfl, fun _ => rfl⟩

/-- An error leaves everything but STATUS; a success writes the command's own results. -/
theorem State.runCommand_frame (s : State) (c : Command) : CommandFrame c s (s.runCommand c) := by
  cases c with
  | parse =>
    rcases s.runParse_cases with ⟨e, -, h⟩ | ⟨g, -, h⟩ <;> rw [State.runCommand, h]
    · exact commandFrame_raise _ s e
    · exact ⟨⟨rfl, rfl, rfl, rfl, rfl, rfl, rfl, rfl, rfl, rfl, rfl, rfl⟩, fun _ => ⟨rfl, rfl, rfl⟩,
        fun h => absurd rfl h, fun _ => ⟨rfl, rfl⟩, fun _ => rfl, nofun⟩
  | decode =>
    rcases s.runDecode_cases with ⟨e, -, h⟩ | ⟨g, -, h⟩ <;> rw [State.runCommand, h]
    · exact commandFrame_raise _ s e
    · exact ⟨⟨rfl, rfl, rfl, rfl, rfl, rfl, rfl, rfl, rfl, rfl, rfl, rfl⟩, fun h => absurd rfl h,
        fun _ h => absurd rfl h, fun _ => ⟨rfl, rfl⟩, nofun, nofun⟩
  | encode =>
    rcases s.runEncode_cases with ⟨e, -, -, h⟩ | ⟨-, -, -, -, -, h⟩ <;> rw [State.runCommand, h]
    · exact commandFrame_raise _ s e
    · exact ⟨⟨rfl, rfl, rfl, rfl, rfl, rfl, rfl, rfl, rfl, rfl, rfl, rfl⟩, fun _ => ⟨rfl, rfl, rfl⟩,
        fun _ _ => ⟨rfl, rfl, rfl, rfl, rfl⟩, fun h => absurd rfl h, fun _ => rfl, nofun⟩
  | line =>
    rcases s.runLine_cases with ⟨-, h⟩ | ⟨-, h⟩ <;> rw [State.runCommand, h]
    · exact commandFrame_raise _ s .capacity
    · exact ⟨⟨rfl, rfl, rfl, rfl, rfl, rfl, rfl, rfl, rfl, rfl, rfl, rfl⟩, fun _ => ⟨rfl, rfl, rfl⟩,
        fun _ _ => ⟨rfl, rfl, rfl, rfl, rfl⟩, fun _ => ⟨rfl, rfl⟩, nofun, fun _ => rfl⟩

/-- Settles O25: each command answers the state it runs to, which has its frame. -/
theorem commandFrames : Obligations.CommandFrames := by
  intro c s t h
  rw [exec_cmdInstr] at h
  exact next_inj h ▸ s.runCommand_frame c

/-! ### Who writes STATUS and the buffers -/

/-- A register write other than to CMD stores one register that is not STATUS (R221). -/
theorem State.hostRegWrite_frame (s : State) {a : Word} (v : Word) (h : a ≠ 0#32) :
    (s.hostRegWrite a v).status = s.status ∧ (s.hostRegWrite a v).src = s.src ∧
      (s.hostRegWrite a v).pix = s.pix ∧ (s.hostRegWrite a v).dst = s.dst := by
  rw [State.hostRegWrite]
  cases hreg : regOfAddr a with
  | none => exact ⟨rfl, rfl, rfl, rfl⟩
  | some r =>
    cases r with
    | cmd => exact absurd (eq_addrOfReg_of_regOfAddr hreg) h
    | _ => exact ⟨rfl, rfl, rfl, rfl⟩

/-- Instruction `i` starts command `c`: by its constructor or by a write of its word to CMD (R22). -/
abbrev StartsCommand (i : Instr) (c : Command) : Prop := i = cmdInstr c ∨ i = .wreg 0#32 (cmdWord c)

/-- Instruction `i` leaves STATUS and DST, and is the host's write of SRC or PIX where it changes that buffer. -/
abbrev HostFrame (i : Instr) (s t : State) : Prop :=
  t.status = s.status ∧ (t.src = s.src ∨ ∃ k b, i = .wsrc k b) ∧ (t.pix = s.pix ∨ ∃ k b, i = .wpix k b) ∧
    t.dst = s.dst

/-- A write to CMD starts the command of its word, or raises IllegalCommand (R22, R249). -/
theorem exec_wreg_cmd_cases {w : Word} {s t : State} (h : exec (.wreg 0#32 w) s = .next t) :
    (∃ c, w = cmdWord c ∧ t = s.runCommand c) ∨ t = s.raise .illegalCommand := by
  have hwrite : s.writeCmd w = t := next_inj h
  rcases s.writeCmd_cases w with ⟨c, hc, hrun⟩ | ⟨-, hrun⟩
  · exact .inl ⟨c, decodeCmd_eq_ok_iff.mp hc, hwrite.symm.trans hrun⟩
  · exact .inr (hwrite.symm.trans hrun)

/-- What an instruction does to STATUS and the buffers: it runs a command, writes an illegal word to CMD, or has the
frame of a host operation. -/
theorem exec_cases {i : Instr} {s t : State} (h : exec i s = .next t) :
    (∃ c, StartsCommand i c ∧ t = s.runCommand c) ∨
      ((∃ w, i = .wreg 0#32 w) ∧ t = s.raise .illegalCommand) ∨ HostFrame i s t := by
  cases i with
  | parse => exact .inl ⟨.parse, .inl rfl, (next_inj h).symm⟩
  | decode => exact .inl ⟨.decode, .inl rfl, (next_inj h).symm⟩
  | encode => exact .inl ⟨.encode, .inl rfl, (next_inj h).symm⟩
  | line => exact .inl ⟨.line, .inl rfl, (next_inj h).symm⟩
  | wreg a v =>
    by_cases ha : a = 0#32
    · subst ha
      rcases exec_wreg_cmd_cases h with ⟨c, rfl, hrun⟩ | hraise
      · exact .inl ⟨c, .inr rfl, hrun⟩
      · exact .inr (.inl ⟨⟨v, rfl⟩, hraise⟩)
    · obtain rfl := next_inj h
      obtain ⟨hstatus, hsrc, hpix, hdst⟩ := s.hostRegWrite_frame v ha
      exact .inr (.inr ⟨hstatus, .inl hsrc, .inl hpix, hdst⟩)
  | rreg | rsrc | rpix | rdst | wdst =>
    obtain rfl := next_inj h
    exact .inr (.inr ⟨rfl, .inl rfl, .inl rfl, rfl⟩)
  | wsrc k b =>
    obtain rfl := next_inj h
    refine .inr (.inr ⟨?_, .inr ⟨k, b, rfl⟩, .inl ?_, ?_⟩) <;> split <;> rfl
  | wpix k b =>
    obtain rfl := next_inj h
    refine .inr (.inr ⟨?_, .inl ?_, .inr ⟨k, b, rfl⟩, ?_⟩) <;> split <;> rfl

/-- Settles O19: an instruction with the frame of a host operation leaves STATUS. -/
theorem statusWrittenByCommandsOnly : Obligations.StatusWrittenByCommandsOnly := by
  intro i s t h hne
  rcases exec_cases h with ⟨c, hi | hi, -⟩ | ⟨hi, -⟩ | ⟨hstatus, -⟩
  · exact .inl ⟨c, hi⟩
  · exact .inr ⟨_, hi⟩
  · exact .inr hi
  · exact absurd hstatus hne

/-- The flags of a completed command: BUSY 0, DONE 1, ERR exactly when ERRCODE ≠ 0 (R23). -/
abbrev CompletedFlags (w : Word) : Prop :=
  w.getLsbD 0 = false ∧ w.getLsbD 1 = true ∧ (w.getLsbD 2 = true ↔ w.extractLsb 7 4 ≠ 0#4)

theorem completedFlags_error (e : Error) : CompletedFlags (statusError e) := by cases e <;> decide

theorem State.runCommand_completedFlags (s : State) (c : Command) : CompletedFlags (s.runCommand c).status := by
  rcases s.runCommand_completes c with hdone | ⟨e, -, hraise⟩
  · rw [hdone]
    decide
  · rw [hraise]
    exact completedFlags_error e

/-- Settles O20: a command completes with one of the STATUS words, all of which have DONE set, and every other
instruction leaves STATUS. -/
theorem doneStaysSet : Obligations.DoneStaysSet := by
  refine ⟨fun c s t h => ?_, fun i s t h hdone => ?_⟩
  · rw [exec_cmdInstr] at h
    exact next_inj h ▸ s.runCommand_completedFlags c
  · rcases exec_cases h with ⟨c, -, rfl⟩ | ⟨-, rfl⟩ | ⟨hstatus, -⟩
    · obtain ⟨-, hdone', -⟩ := s.runCommand_completedFlags c
      exact hdone'
    · obtain ⟨-, hdone', -⟩ := completedFlags_error .illegalCommand
      exact hdone'
    · rwa [hstatus]

/-- Settles O21: the frames of the commands and of the host operations, buffer by buffer. -/
theorem whoWritesTheBuffers : Obligations.WhoWritesTheBuffers := by
  intro i s t h
  rcases exec_cases h with ⟨c, hi, rfl⟩ | ⟨-, rfl⟩ | ⟨-, hsrc, hpix, hdst⟩
  · obtain ⟨⟨hsrc, -⟩, -, -, hdst, hpix, -⟩ := s.runCommand_frame c
    refine ⟨fun hne => absurd hsrc hne, fun hne => ?_, fun hne => ?_⟩
    · cases c with
      | parse | encode => exact absurd (hpix (by decide)) hne
      | decode => exact hi.elim (fun h => .inr (.inl h)) fun h => .inr (.inr (.inr (.inl h)))
      | line => exact hi.elim (fun h => .inr (.inr (.inl h))) fun h => .inr (.inr (.inr (.inr h)))
    · cases c with
      | encode => exact hi
      | parse | decode | line => exact absurd (hdst (by decide)).1 hne
  · exact ⟨fun hne => absurd rfl hne, fun hne => absurd rfl hne, fun hne => absurd rfl hne⟩
  · exact ⟨fun hne => hsrc.resolve_left hne, fun hne => .inl (hpix.resolve_left hne), fun hne => absurd hdst hne⟩

/-! ### ImageValid (R48) -/

/-- ImageValid depends on the Image registers and PIX_CAP alone. -/
theorem imageValid_congr {s t : State} (hw : t.imgWidth = s.imgWidth) (hh : t.imgHeight = s.imgHeight)
    (hfmt : t.imgFmt = s.imgFmt) (hcap : t.capPix = s.capPix) : ImageValid t ↔ ImageValid s := by
  simp only [ImageValid, State.imageBytes, State.imgW, State.imgH, State.bpp, State.cap, hw, hh, hfmt, hcap]

/-- Settles O37: at reset the width is 0; a decoded Image fits PIX, and every other command leaves the Image registers. -/
theorem imageValidKept : Obligations.ImageValidKept := by
  refine ⟨fun h => absurd h.1 (by decide), fun c s t hinv hvalid h => ?_⟩
  rw [exec_cmdInstr] at h
  obtain rfl := next_inj h
  obtain ⟨⟨-, -, -, -, -, -, -, hcap, -⟩, himage, -⟩ := s.runCommand_frame c
  by_cases hc : c = .decode
  · subst hc
    rcases s.runDecode_cases with ⟨e, -, hrun⟩ | ⟨g, hok, hrun⟩ <;> rw [State.runCommand, hrun]
    · exact hvalid
    · exact State.decoded_imageValid hinv hok
  · obtain ⟨hw, hh, hfmt⟩ := himage hc
    exact (imageValid_congr hw hh hfmt hcap).mpr hvalid

/-! ### Host writes to different bytes (R72) -/

/-- The memory with the byte `v` at `a`, where `a` lies below `n`, and unchanged otherwise (R62). -/
def Memory.setBelow (m : Memory) (n a : Nat) (v : Byte) : Memory := if a < n then m.set a v else m

theorem Memory.setBelow_comm {m : Memory} (hm : m.wf) (n : Nat) {a b : Nat} (v w : Byte) (h : a ≠ b) :
    (m.setBelow n a v).setBelow n b w = (m.setBelow n b w).setBelow n a v := by
  simp only [Memory.setBelow]
  by_cases ha : a < n
  · by_cases hb : b < n
    · simpa only [if_pos ha, if_pos hb] using Memory.set_comm hm v w h
    · simp only [if_pos ha, if_neg hb]
  · simp only [if_neg ha]

theorem Memory.setBelow_setBelow {m : Memory} (hm : m.wf) (n a : Nat) (v w : Byte) :
    (m.setBelow n a v).setBelow n a w = m.setBelow n a w := by
  simp only [Memory.setBelow]
  split
  · exact Memory.set_set hm a v w
  · rfl

theorem exec_wsrc_setBelow (i : Word) (b : Byte) (s : State) :
    exec (.wsrc i b) s = .next (s.withSrc (s.src.setBelow (s.cap .src) i.toNat b)) := by
  rw [exec_wsrc, Memory.setBelow]
  split <;> rfl

theorem exec_wpix_setBelow (i : Word) (b : Byte) (s : State) :
    exec (.wpix i b) s = .next (s.withPix (s.pix.setBelow (s.cap .pix) i.toNat b)) := by
  rw [exec_wpix, Memory.setBelow]
  split <;> rfl

/-- Settles O17: each write is one `Memory.setBelow` of its buffer, and those commute, or the later stands, in a canonical
memory. -/
theorem hostWritesCommute : Obligations.HostWritesCommute := by
  intro s i j b c hsrc hpix
  have hne (h : i ≠ j) : i.toNat ≠ j.toNat := fun e => h (BitVec.eq_of_toNat_eq e)
  refine ⟨fun h => ⟨?_, ?_⟩, ?_, ?_, ?_⟩
  · have hset := Memory.setBelow_comm hsrc (s.cap .src) c b (hne h).symm
    exact ⟨_, _, _, exec_wsrc_setBelow i b s, exec_wsrc_setBelow j c _, exec_wsrc_setBelow j c s,
      (exec_wsrc_setBelow i b _).trans (congrArg (fun m => Host.Outcome.next (s.withSrc m)) hset)⟩
  · have hset := Memory.setBelow_comm hpix (s.cap .pix) c b (hne h).symm
    exact ⟨_, _, _, exec_wpix_setBelow i b s, exec_wpix_setBelow j c _, exec_wpix_setBelow j c s,
      (exec_wpix_setBelow i b _).trans (congrArg (fun m => Host.Outcome.next (s.withPix m)) hset)⟩
  · exact ⟨_, _, _, exec_wsrc_setBelow i b s, exec_wpix_setBelow j c _, exec_wpix_setBelow j c s,
      exec_wsrc_setBelow i b _⟩
  · have hset := Memory.setBelow_setBelow hsrc (s.cap .src) i.toNat b c
    exact ⟨_, exec_wsrc_setBelow i b s, (exec_wsrc_setBelow i c _).trans
      ((congrArg (fun m => Host.Outcome.next (s.withSrc m)) hset).trans (exec_wsrc_setBelow i c s).symm)⟩
  · have hset := Memory.setBelow_setBelow hpix (s.cap .pix) i.toNat b c
    exact ⟨_, exec_wpix_setBelow i b s, (exec_wpix_setBelow i c _).trans
      ((congrArg (fun m => Host.Outcome.next (s.withPix m)) hset).trans (exec_wpix_setBelow i c s).symm)⟩

end Sys2Proof.Machine
end

section
/-! SUPPORT. Idle and reset steps (R40, R270), the reset state and the first commands after it (R47), and LINE where it
colours nothing (R207) or with another row origin (R200). -/

namespace Sys2Proof.Machine

open Sys2Proof

/-! ### Idling and resetting -/

/-- A reset event gives every register but the capacities the value 0 (R37, R270). -/
theorem State.takeReset_readReg (s : State) {r : RegName} (hsrc : r ≠ .capSrc) (hpix : r ≠ .capPix)
    (hdst : r ≠ .capDst) : s.takeReset.readReg r = 0#32 := by
  cases r with
  | capSrc => exact absurd rfl hsrc
  | capPix => exact absurd rfl hpix
  | capDst => exact absurd rfl hdst
  | _ => rfl

/-- Settles O2: the step with nothing pending, and with a reset event as the oldest. -/
theorem idleStepAndResetEvent : Obligations.IdleStepAndResetEvent := by
  refine ⟨fun s h => step_idle h, fun s rest h => ⟨s.pop.takeReset, step_reset h, congrArg List.tail h, ?_, rfl, rfl, rfl,
    s.pop.takeReset_byteAt⟩⟩
  exact fun r hsrc hpix hdst => s.pop.takeReset_readReg hsrc hpix hdst

/-- Settles O3: register by register and buffer by buffer. -/
theorem resetState : Obligations.ResetState :=
  ⟨fun r => by cases r <;> rfl, fun b i => by cases b <;> rfl⟩

/-! ### LINE without effect on PIX -/

/-- In an empty window no point is inside (R207). -/
theorem LineSetup.not_inside_of_empty {l : LineSetup} (h : l.w ≤ 0 ∨ l.h ≤ 0) (p : LinePoint) : ¬ l.inside p := by
  rintro ⟨hx0, hx, hy0, hy⟩
  omega

theorem LineSetup.loop_of_empty {l : LineSetup} (h : l.w ≤ 0 ∨ l.h ≤ 0) (n : Nat) (p : LinePoint) (m : Memory) :
    l.loop n p m = m := by
  rw [LineSetup.loop_eq_foldl]
  induction l.trace n p with
  | nil => rfl
  | cons q rest ih => rw [List.foldl_cons, l.plot_outside q m (LineSetup.not_inside_of_empty h q), ih]

theorem State.runLine_of_empty {s : State} (h : s.imgW ≤ 0 ∨ s.imgH ≤ 0) : s.runLine = s.complete := by
  have hfits : ¬ s.lineTooBig := fun hbig => by
    obtain ⟨hw, hh, -⟩ := hbig
    omega
  rw [State.runLine_of_fits hfits, State.afterLine, LineSetup.loop_of_empty h]
  rfl

/-- Settles O44: an empty window raises no Capacity and plots no point. -/
theorem lineOnEmptyWindow : Obligations.LineOnEmptyWindow :=
  fun s h => congrArg Host.Outcome.next (s.runLine_of_empty h)

/-- Settles O4: SRC_LEN is 0, so the file is shorter than a file header, and the Image is empty. -/
theorem firstCommandsAfterReset : Obligations.FirstCommandsAfterReset := by
  have hshort : State.reset.srcLen.toNat < 14 := by decide
  have hparsed : State.reset.parsed = .error .truncated := by rw [State.parsed, parse, if_pos hshort]
  have hempty : State.reset.imgW ≤ 0 ∨ State.reset.imgH ≤ 0 := .inl (by decide)
  exact ⟨congrArg Host.Outcome.next (State.runParse_of_error hparsed),
    congrArg Host.Outcome.next (State.runDecode_of_error hparsed),
    congrArg Host.Outcome.next (State.runEncode_of_error (State.encodeCheck_of_empty hempty)),
    congrArg Host.Outcome.next (State.runLine_of_empty hempty)⟩

/-! ### LINE and the row origin -/

/-- Of IMG_FMT, LINE reads the bytes per pixel alone. -/
theorem State.runLine_withFmt {s : State} {f : Word} (h : fmtBpp f = fmtBpp s.imgFmt) :
    State.runLine { s with imgFmt := f } = { s.runLine with imgFmt := f } := by
  have hbytes : State.imageBytes { s with imgFmt := f } = s.imageBytes :=
    congrArg (fun n : Nat => s.imgW * s.imgH * n) h
  have hsetup : State.lineSetup { s with imgFmt := f } = s.lineSetup :=
    congrArg
      (fun n => Machine.lineSetup s.imgW s.imgH n s.lineX0.toInt s.lineY0.toInt s.lineX1.toInt s.lineY1.toInt) h
  by_cases hbig : s.lineTooBig
  · have hbig' : State.lineTooBig { s with imgFmt := f } := by rwa [State.lineTooBig, hbytes]
    rw [State.runLine_of_tooBig hbig, State.runLine_of_tooBig hbig']
    rfl
  · have hbig' : ¬ State.lineTooBig { s with imgFmt := f } := by rwa [State.lineTooBig, hbytes]
    rw [State.runLine_of_fits hbig, State.runLine_of_fits hbig', State.afterLine, hsetup]
    rfl

/-- Settles O51: formats of the same BPP4 have the same bytes per pixel. -/
theorem lineIgnoresRowOrigin : Obligations.LineIgnoresRowOrigin := by
  intro s t f hbpp4 h
  obtain rfl := next_inj h
  have hbpp : fmtBpp f = fmtBpp s.imgFmt := by rw [fmtBpp_eq_ite, fmtBpp_eq_ite, hbpp4]
  rw [exec_line, State.runLine_withFmt hbpp]

end Sys2Proof.Machine
end

section
/-! SUPPORT. The consequences of the row stride (R131) and of the row-flip index (R161). -/

namespace Sys2Proof.Machine

open Sys2Proof

/-- Settles O26: the stride is the row with its padding, less than 4 bytes more than the row. -/
theorem rowStrideIsLeastMultiple : Obligations.RowStrideIsLeastMultiple := by
  intro w bpp hw hbpp
  have hpad := rowStrideOf_eq_add_padding w bpp
  obtain ⟨hmul, hle, hlt⟩ := rowStrideOf_bounds w bpp
  refine ⟨hmul, hle, fun m hm hrow => by omega, ?_, by omega, ?_, ?_⟩
  · rcases hbpp with rfl | rfl <;> omega
  · rintro rfl
    omega
  · rintro rfl
    omega

/-- Settles O27: the index lies in the range and is its own inverse, hence injective. -/
theorem canonicalRowIsItsOwnInverse : Obligations.CanonicalRowIsItsOwnInverse := by
  intro r h td hr
  have hlt := canonicalRow_lt td hr
  refine ⟨rfl, rfl, hlt, canonicalRow_twice td hr, fun hone => by omega, fun q hq heq => ?_⟩
  calc q
    _ = canonicalRow (canonicalRow q h td) h td := (canonicalRow_twice td hq).symm
    _ = canonicalRow (canonicalRow r h td) h td := by rw [heq]
    _ = r := canonicalRow_twice td hr

end Sys2Proof.Machine
end

section
/-! SUPPORT. The bytes of fields, emitted and assembled (R63, R100 to R103), and the bytes that `parse` and the row copy
look at (R98, R143). -/

namespace Sys2Proof.Machine

open Sys2Proof

/-! ### Emitted bytes -/

theorem le16_byte (v : Nat) {k : Nat} (hk : k < 2) : ((le16 v).getD k 0#8).toNat = v / 2 ^ (8 * k) % 2 ^ 8 := by
  obtain rfl | rfl : k = 0 ∨ k = 1 := by omega
  · rw [Nat.mul_zero, Nat.pow_zero, Nat.div_one]
    exact BitVec.toNat_ofNat v 8
  · exact BitVec.toNat_ofNat (v / 2 ^ 8) 8

theorem wordBytes_byte (w : Word) {k : Nat} (hk : k < 4) :
    ((wordBytes w).getD k 0#8).toNat = w.toNat / 2 ^ (8 * k) % 2 ^ 8 := by
  rw [← Nat.shiftRight_eq_div_pow]
  obtain rfl | rfl | rfl | rfl : k = 0 ∨ k = 1 ∨ k = 2 ∨ k = 3 := by omega
  exacts [BitVec.extractLsb_toNat 7 0 w, BitVec.extractLsb_toNat 15 8 w, BitVec.extractLsb_toNat 23 16 w,
    BitVec.extractLsb_toNat 31 24 w]

/-- The word of a field value: itself, or v + 2^32 where it is negative (R103). -/
theorem toNat_ofInt_field {v : Int} (hlo : -2 ^ 31 ≤ v) (hhi : v < 2 ^ 32) :
    ((BitVec.ofInt 32 v).toNat : Int) = if v < 0 then v + 2 ^ 32 else v := by
  rw [BitVec.toNat_ofInt]
  split <;> omega

/-! ### Assembled bytes -/

theorem u16le_byte (B : Nat → Byte) (a : Nat) {k : Nat} (hk : k < 2) :
    u16le B a / 2 ^ (8 * k) % 2 ^ 8 = (B (a + k)).toNat := by
  have h0 := (B a).isLt
  have h1 := (B (a + 1)).isLt
  obtain rfl | rfl : k = 0 ∨ k = 1 := by omega
  all_goals
    simp only [u16le, Nat.add_zero]
    omega

theorem u32le_byte (B : Nat → Byte) (a : Nat) {k : Nat} (hk : k < 4) :
    u32le B a / 2 ^ (8 * k) % 2 ^ 8 = (B (a + k)).toNat := by
  have h0 := (B a).isLt
  have h1 := (B (a + 1)).isLt
  have h2 := (B (a + 2)).isLt
  have h3 := (B (a + 3)).isLt
  obtain rfl | rfl | rfl | rfl : k = 0 ∨ k = 1 ∨ k = 2 ∨ k = 3 := by omega
  all_goals
    simp only [u32le, Nat.add_zero]
    omega

/-- Settles O28: each byte of a field is its digit in base 2^8, and the fields that are emitted read back. -/
theorem fieldsRoundTrip : Obligations.FieldsRoundTrip := by
  refine ⟨fun v hv => u16le_of_le16 hv rfl, fun v hv => ?_, fun v hlo hhi => i32le_of_le32 hlo hhi rfl,
    fun v _ => ⟨rfl, fun k => le16_byte v⟩, fun v hlo hhi => ⟨rfl, fun k hk => ?_⟩, fun B a =>
    ⟨fun k => u16le_byte B a, fun k => u32le_byte B a, rfl, u16le_lt B a, u32le_lt B a, i32le_range B a⟩⟩
  · calc u32le (fun k => (le32 v).getD k 0#8) 0
      _ = (BitVec.ofInt 32 (v : Int)).toNat := u32le_of_wordBytes rfl
      _ = v := by rw [BitVec.ofInt_natCast, toNat_ofNat_word hv]
  · rw [← toNat_ofInt_field hlo hhi]
    exact_mod_cast wordBytes_byte _ hk

/-! ### Equal fields and equal bytes -/

theorem u16le_congr_bytes {S T : Nat → Byte} {a : Nat} (h : ∀ i, a ≤ i → i < a + 2 → S i = T i) :
    u16le S a = u16le T a := by
  rw [u16le, h a (by omega) (by omega), h (a + 1) (by omega) (by omega), u16le]

theorem u32le_congr_bytes {S T : Nat → Byte} {a : Nat} (h : ∀ i, a ≤ i → i < a + 4 → S i = T i) :
    u32le S a = u32le T a := by
  rw [u32le, h a (by omega) (by omega), h (a + 1) (by omega) (by omega), h (a + 2) (by omega) (by omega),
    h (a + 3) (by omega) (by omega), u32le]

/-- A 16-bit field determines its bytes. -/
theorem bytes_eq_of_u16le_eq {S T : Nat → Byte} {a : Nat} (h : u16le S a = u16le T a) {i : Nat} (hlo : a ≤ i)
    (hhi : i < a + 2) : S i = T i := by
  obtain ⟨k, rfl⟩ := Nat.exists_eq_add_of_le hlo
  apply BitVec.eq_of_toNat_eq
  rw [← u16le_byte S a (by omega), h, u16le_byte T a (by omega)]

/-- A 32-bit field determines its bytes. -/
theorem bytes_eq_of_u32le_eq {S T : Nat → Byte} {a : Nat} (h : u32le S a = u32le T a) {i : Nat} (hlo : a ≤ i)
    (hhi : i < a + 4) : S i = T i := by
  obtain ⟨k, rfl⟩ := Nat.exists_eq_add_of_le hlo
  apply BitVec.eq_of_toNat_eq
  rw [← u32le_byte S a (by omega), h, u32le_byte T a (by omega)]

theorem u32le_eq_of_i32le_eq {S T : Nat → Byte} {a : Nat} (h : i32le S a = i32le T a) : u32le S a = u32le T a := by
  have hS := u32le_lt S a
  have hT := u32le_lt T a
  simp only [i32le, sext32] at h
  split at h <;> split at h <;> omega

/-! ### The bytes that `parse` reads (R143) -/

theorem geometryOf_congr_bytes {S T : Nat → Byte} (h : ∀ i, 10 ≤ i → i < 34 → S i = T i) :
    geometryOf S = geometryOf T := by
  have hword {a : Nat} (hlo : 10 ≤ a) (hhi : a + 4 ≤ 34) : u32le S a = u32le T a :=
    u32le_congr_bytes fun i _ _ => h i (by omega) (by omega)
  have h28 : u16le S 28 = u16le T 28 := u16le_congr_bytes fun i _ _ => h i (by omega) (by omega)
  have h18 : i32le S 18 = i32le T 18 := congrArg sext32 (hword (by decide) (by decide))
  have h22 : i32le S 22 = i32le T 22 := congrArg sext32 (hword (by decide) (by decide))
  rw [geometryOf, hword (a := 10) (by decide) (by decide), hword (a := 14) (by decide) (by decide), h18, h22, h28,
    geometryOf]

/-- Settles O31: each check reads a byte only after the checks before it have shown that the byte lies below L. -/
theorem parseReadsOnlyHeaderBytes : Obligations.ParseReadsOnlyHeaderBytes := by
  intro S T L h
  rw [parse, parse]
  refine ite_congr rfl (fun _ => rfl) fun hlen => ?_
  have h0 : S 0 = T 0 := h 0 (by omega) (by omega)
  have h1 : S 1 = T 1 := h 1 (by omega) (by omega)
  refine ite_congr (by rw [h0, h1]) (fun _ => rfl) fun _ => ?_
  refine ite_congr rfl (fun _ => rfl) fun hlen => ?_
  have hdib : u32le S 14 = u32le T 14 := u32le_congr_bytes fun i _ _ => h i (by omega) (by omega)
  rw [hdib]
  refine ite_congr rfl (fun _ => rfl) fun hlen => ?_
  refine ite_congr rfl (fun _ => rfl) fun h40 => ?_
  have hfield : ∀ i, 10 ≤ i → i < 34 → S i = T i := fun i _ _ => h i (by omega) (by omega)
  have h26 : u16le S 26 = u16le T 26 := u16le_congr_bytes fun i _ _ => hfield i (by omega) (by omega)
  have h30 : u32le S 30 = u32le T 30 := u32le_congr_bytes fun i _ _ => hfield i (by omega) (by omega)
  rw [checkFields, h26, h30, geometryOf_congr_bytes hfield, checkFields]

/-! ### The bytes that reach the Image (R98, R99, R167) -/

/-- Settles O36: both files have the same geometry but for their offsets and header sizes, and each Image byte is a pixel
byte of its file. -/
theorem onlyPixelBytesReachTheImage : Obligations.OnlyPixelBytesReachTheImage := by
  intro s u g k hs hu hwidth hheight hbitcnt hpix
  have habsH : g.absH = k.absH := by rw [absH_eq_of_parse_ok hs, absH_eq_of_parse_ok hu, hheight]
  have hbpp : g.bpp = k.bpp := by rw [bpp_eq_of_parse_ok hs, bpp_eq_of_parse_ok hu, hbitcnt]
  have htd : g.td = k.td := by rw [td_eq_of_parse_ok hs, td_eq_of_parse_ok hu, hheight]
  have hrow : g.rowBytes = k.rowBytes := by rw [Geometry.rowBytes, Geometry.rowBytes, hwidth, hbpp]
  refine ⟨s.decoded g, u.decoded k, congrArg _ (State.runDecode_of_ok hs), congrArg _ (State.runDecode_of_ok hu),
    congrArg (BitVec.ofInt 32) hwidth, congrArg (BitVec.ofNat 32) habsH, congrArg₂ fmtWord hbpp htd, fun i hi => ?_⟩
  rw [s.decoded_imageBytes s.srcLen.isLt hs, Int.ofNat_lt] at hi
  obtain ⟨y, j, hy, hj, rfl⟩ := exists_row_index hi
  calc (s.decoded g).byteAt .pix (y * g.rowBytes + j)
    _ = s.fileByte g (canonicalRow y g.absH g.td) j := s.decoded_pix_row g hy hj
    _ = u.fileByte k (canonicalRow y k.absH k.td) j := by rw [hpix _ _ (canonicalRow_lt g.td hy) hj, habsH, htd]
    _ = (u.decoded k).byteAt .pix (y * k.rowBytes + j) := (u.decoded_pix_row k (habsH ▸ hy) (hrow ▸ hj)).symm
    _ = (u.decoded k).byteAt .pix (y * g.rowBytes + j) := by rw [hrow]

end Sys2Proof.Machine
end

section
/-! SUPPORT. Every byte of the file that ENCODE writes (R182, R184, R185), and when encoding a decoded file gives a file
back (R188). -/

namespace Sys2Proof.Machine

open Sys2Proof

/-! ### The bytes of the encoded file -/

/-- Where the header fields that `parse` does not read stand (R182). -/
theorem EncodePlan.header_other_fields (p : EncodePlan) :
    (p.header 0 = 0x42#8 ∧ p.header 1 = 0x4D#8) ∧
      [p.header 2, p.header 3, p.header 4, p.header 5] = le32 p.fileSize ∧
      [p.header 34, p.header 35, p.header 36, p.header 37] = le32 p.imageSize := by
  simp [header, headerBytes, le32, le16, wordBytes]

/-- The bytes of the emitted header that hold no field are zero (R182). -/
theorem EncodePlan.header_zeros (p : EncodePlan) :
    (∀ k, 6 ≤ k → k < 10 → p.header k = 0#8) ∧ ∀ k, 38 ≤ k → k < 54 → p.header k = 0#8 := by
  constructor
  · intro k hlo hhi
    obtain rfl | rfl | rfl | rfl : k = 6 ∨ k = 7 ∨ k = 8 ∨ k = 9 := by omega
    all_goals simp [header, headerBytes, le32, wordBytes]
  · intro k hlo hhi
    have hlen := headerBytes_length p
    rw [headerBytes, List.length_append, List.length_replicate] at hlen
    rw [EncodePlan.header, headerBytes, List.getD_append_right _ _ _ _ (by omega), List.getD_replicate _ (by omega)]

theorem EncodePlan.fileSize_eq (p : EncodePlan) : p.fileSize = 54 + p.h * p.stride := by
  rw [EncodePlan.fileSize, EncodePlan.imageSize, Nat.mul_comm]

/-- The header fields of the plan's file (R182), with the ignored bytes 6 to 9 and 38 to 53 zero (log entry 10). -/
abbrev HeaderFields (S : Nat → Byte) (p : EncodePlan) : Prop :=
  (S 0 = 0x42#8 ∧ S 1 = 0x4D#8) ∧ u32le S 2 = p.fileSize ∧ (∀ k, 6 ≤ k → k < 10 → S k = 0#8) ∧ u32le S 10 = 54 ∧
    u32le S 14 = 40 ∧ i32le S 18 = p.w ∧ i32le S 22 = p.heightField ∧ u16le S 26 = 1 ∧ u16le S 28 = p.bpp * 8 ∧
    u32le S 30 = 0 ∧ u32le S 34 = p.imageSize ∧ ∀ k, 38 ≤ k → k < 54 → S k = 0#8

/-- A size below 2^32 reads back from its four bytes. -/
theorem u32le_of_le32 {B : Nat → Byte} {a n : Nat} (hn : n < 2 ^ 32)
    (h : [B a, B (a + 1), B (a + 2), B (a + 3)] = le32 n) : u32le B a = n := by
  rw [u32le_of_wordBytes h, BitVec.ofInt_natCast, toNat_ofNat_word hn]

theorem EncodePlan.header_hasFields {p : EncodePlan} (hp : p.Legal) (hsize : p.fileSize < 2 ^ 32) :
    HeaderFields p.header p := by
  have himage : p.imageSize < 2 ^ 32 := (Nat.le_add_left ..).trans_lt hsize
  have hgeometry := geometryOf_header hp
  rw [geometryOf, EncodePlan.geometry, Geometry.mk.injEq] at hgeometry
  obtain ⟨h10, h14, h18, h22, h28, -⟩ := hgeometry
  obtain ⟨-, -, -, -, h26, -, h30⟩ := p.header_fields
  obtain ⟨hmagic, h2, h34⟩ := p.header_other_fields
  obtain ⟨hreserved, hrest⟩ := p.header_zeros
  exact ⟨hmagic, u32le_of_le32 hsize h2, hreserved, h10, h14, h18, h22, u16le_of_le16 (by decide) h26, h28,
    u32le_of_wordBytes h30, u32le_of_le32 himage h34, hrest⟩

/-- The fields cover the header: having ENCODE's fields is having its 54 bytes. -/
theorem sameHeader_iff {S : Nat → Byte} {p : EncodePlan} (hp : p.Legal) (hsize : p.fileSize < 2 ^ 32) :
    SameHeader S p.header ↔ HeaderFields S p := by
  obtain ⟨⟨k0, k1⟩, k2, k6, k10, k14, k18, k22, k26, k28, k30, k34, k38⟩ := EncodePlan.header_hasFields hp hsize
  constructor
  · intro h
    have hword {a : Nat} (ha : a + 4 ≤ 54) := u32le_congr h ha
    have hint {a : Nat} (ha : a + 4 ≤ 54) : i32le S a = i32le p.header a := congrArg sext32 (hword ha)
    have hhalf {a : Nat} (ha : a + 2 ≤ 54) := u16le_congr h ha
    exact ⟨⟨(h 0 (by decide)).trans k0, (h 1 (by decide)).trans k1⟩, (hword (by decide)).trans k2,
      fun k hlo hhi => (h k (by omega)).trans (k6 k hlo hhi), (hword (by decide)).trans k10,
      (hword (by decide)).trans k14, (hint (by decide)).trans k18, (hint (by decide)).trans k22,
      (hhalf (by decide)).trans k26, (hhalf (by decide)).trans k28, (hword (by decide)).trans k30,
      (hword (by decide)).trans k34, fun k hlo hhi => (h k hhi).trans (k38 k hlo hhi)⟩
  · rintro ⟨⟨h0, h1⟩, h2, h6, h10, h14, h18, h22, h26, h28, h30, h34, h38⟩ i hi
    have hint {a : Nat} (h : i32le S a = i32le p.header a) := @bytes_eq_of_u32le_eq S p.header a (u32le_eq_of_i32le_eq h) i
    rcases Nat.lt_or_ge i 2 with hlt | h2le
    · obtain rfl | rfl : i = 0 ∨ i = 1 := by omega
      exacts [h0.trans k0.symm, h1.trans k1.symm]
    rcases Nat.lt_or_ge i 6 with hlt | h6le
    · exact bytes_eq_of_u32le_eq (h2.trans k2.symm) h2le hlt
    rcases Nat.lt_or_ge i 10 with hlt | h10le
    · exact (h6 i h6le hlt).trans (k6 i h6le hlt).symm
    rcases Nat.lt_or_ge i 14 with hlt | h14le
    · exact bytes_eq_of_u32le_eq (h10.trans k10.symm) h10le hlt
    rcases Nat.lt_or_ge i 18 with hlt | h18le
    · exact bytes_eq_of_u32le_eq (h14.trans k14.symm) h14le hlt
    rcases Nat.lt_or_ge i 22 with hlt | h22le
    · exact hint (h18.trans k18.symm) h18le hlt
    rcases Nat.lt_or_ge i 26 with hlt | h26le
    · exact hint (h22.trans k22.symm) h22le hlt
    rcases Nat.lt_or_ge i 28 with hlt | h28le
    · exact bytes_eq_of_u16le_eq (h26.trans k26.symm) h26le hlt
    rcases Nat.lt_or_ge i 30 with hlt | h30le
    · exact bytes_eq_of_u16le_eq (h28.trans k28.symm) h28le hlt
    rcases Nat.lt_or_ge i 34 with hlt | h34le
    · exact bytes_eq_of_u32le_eq (h30.trans k30.symm) h30le hlt
    rcases Nat.lt_or_ge i 38 with hlt | h38le
    · exact bytes_eq_of_u32le_eq (h34.trans k34.symm) h34le hlt
    · exact (h38 i h38le hi).trans (k38 i h38le hi).symm

/-- The padding of file row `r` is zero (R184). -/
theorem State.encoded_padding (s : State) (p : EncodePlan) {r k : Nat} (hr : r < p.h) (hk : p.rowBytes ≤ k)
    (hs : k < p.stride) : (s.encoded p).byteAt .dst (54 + r * p.stride + k) = 0#8 := by
  rw [State.encoded_byteAt_dst, rowsOut_pad _ _ _ hr hk hs, Option.getD_some]

/-- ENCODE leaves DST from the end of the file on (R185). -/
theorem State.encoded_beyond (s : State) (p : EncodePlan) {i : Nat} (hi : p.fileSize ≤ i) :
    (s.encoded p).byteAt .dst i = s.byteAt .dst i := by
  have h54 : ¬ i < 54 := by rw [EncodePlan.fileSize] at hi; omega
  rw [State.encoded_byteAt_dst, rowsOut_miss _ _ _ (.inr hi), emitHeaders_get?, if_neg h54]
  rfl

/-- A file with at least one row is no shorter than its stride. -/
theorem EncodePlan.stride_le_fileSize {p : EncodePlan} (hh : 0 < p.h) : p.stride ≤ p.fileSize :=
  (Nat.le_mul_of_pos_right p.stride hh).trans (Nat.le_add_left p.imageSize 54)

/-- Settles O39: ENCODE runs to `State.encoded`, whose DST bytes are the emitted header, the pixel bytes of the canonical
rows, zero padding, and from the end of the file on the bytes before. -/
theorem encodeWritesTheFile : Obligations.EncodeWritesTheFile := by
  intro s w h bpp stride td hwidth hheight hw hh hbpp htd hstride hpix hdst
  have hw' : 0 < s.imgW := (Int.natCast_pos.mpr hw).trans_eq hwidth.symm
  have hh' : 0 < s.imgH := (Int.natCast_pos.mpr hh).trans_eq hheight.symm
  obtain rfl : w = s.encodePlan.w := (Int.toNat_natCast w).symm.trans (congrArg Int.toNat hwidth).symm
  obtain rfl : h = s.encodePlan.h := (Int.toNat_natCast h).symm.trans (congrArg Int.toNat hheight).symm
  obtain rfl : bpp = s.encodePlan.bpp := hbpp.trans (fmtBpp_eq_ite s.imgFmt).symm
  obtain rfl : td = s.encodePlan.td := htd
  obtain rfl : stride = s.encodePlan.stride := hstride
  have hbytes : s.imageBytes ≤ s.cap .pix := by
    rw [← State.encodePlan_pixelBytes hw' hh']
    exact Int.ofNat_le.mpr hpix
  have hrun := State.runEncode_of_ok (State.encodeCheck_of_fits hw' hh' hbytes hdst)
  have hsize : s.encodePlan.fileSize < 2 ^ 32 := hdst.trans_lt s.capDst.isLt
  obtain ⟨⟨h0, h1⟩, h2, h6, h10, h14, h18, h22, h26, h28, h30, h34, h38⟩ :=
    (sameHeader_iff (State.encodePlan_legal hw' hh') hsize).mp (s.encoded_header s.encodePlan)
  exact ⟨s.encoded s.encodePlan, congrArg _ hrun, rfl, State.encoded_dstLen hdst,
    toNat_ofNat_word ((EncodePlan.stride_le_fileSize hh).trans_lt hsize), h0, h1, h2, h6, h10, h14, h18, h22, h26, h28,
    h30, h34, h38, fun r k hr hk => s.encoded_pixel _ hr hk, fun r k hr hk hs => s.encoded_padding _ hr hk hs,
    fun i hi => s.encoded_beyond _ hi⟩

/-! ### Encoding again -/

/-- Every byte of the file is a header byte or lies in one of its rows. -/
theorem EncodePlan.file_index_cases {p : EncodePlan} {i : Nat} (hi : i < p.fileSize) :
    i < 54 ∨ ∃ r k, r < p.h ∧ k < p.stride ∧ 54 + r * p.stride + k = i := by
  rw [p.fileSize_eq] at hi
  refine (Nat.lt_or_ge i 54).imp_right fun h54 => ?_
  obtain ⟨r, k, hr, hk, hrow⟩ := exists_row_index (show i - 54 < p.h * p.stride by omega)
  exact ⟨r, k, hr, hk, by omega⟩

/-- Two states whose PIX agrees on the plan's pixel bytes encode to the same file. -/
theorem State.encoded_byteAt_congr {s v : State} {p : EncodePlan}
    (h : ∀ y j, y < p.h → j < p.rowBytes → v.byteAt .pix (y * p.rowBytes + j) = s.byteAt .pix (y * p.rowBytes + j))
    {i : Nat} (hi : i < p.fileSize) : (v.encoded p).byteAt .dst i = (s.encoded p).byteAt .dst i := by
  rcases EncodePlan.file_index_cases hi with h54 | ⟨r, k, hr, hk, rfl⟩
  · rw [v.encoded_header p i h54, s.encoded_header p i h54]
  · by_cases hpix : k < p.rowBytes
    · rw [v.encoded_pixel p hr hpix, s.encoded_pixel p hr hpix, h _ k (canonicalRow_lt p.td hr) hpix]
    · rw [v.encoded_padding p hr (not_lt.mp hpix) hk, s.encoded_padding p hr (not_lt.mp hpix) hk]

/-- ENCODE reads the Image registers and two capacities before it reads a byte. -/
theorem State.encodePlan_congr {s v : State} (hw : v.imgWidth = s.imgWidth) (hh : v.imgHeight = s.imgHeight)
    (hfmt : v.imgFmt = s.imgFmt) : v.encodePlan = s.encodePlan := by
  simp only [State.encodePlan, State.imgW, State.imgH, State.bpp, State.topDown, hw, hh, hfmt]

theorem State.encodeCheck_congr {s v : State} (hw : v.imgWidth = s.imgWidth) (hh : v.imgHeight = s.imgHeight)
    (hfmt : v.imgFmt = s.imgFmt) (hpix : v.capPix = s.capPix) (hdst : v.capDst = s.capDst) :
    v.encodeCheck = s.encodeCheck := by
  have hempty : v.imgW ≤ 0 ∨ v.imgH ≤ 0 ↔ s.imgW ≤ 0 ∨ s.imgH ≤ 0 := by
    simp only [State.imgW, State.imgH, hw, hh]
  have hcap : v.cap .pix = s.cap .pix ∧ v.cap .dst = s.cap .dst := by
    simp only [State.cap, hpix, hdst, and_self]
  rw [State.encodeCheck, State.encodeCheck, State.encodePlan_congr hw hh hfmt, hcap.1, hcap.2]
  exact if_congr hempty rfl rfl

theorem encodeCheck_of_done {s t : State} (h : exec .encode s = .next t) (hdone : t.status = 0x00000002#32) :
    s.encodeCheck = .ok s.encodePlan := by
  obtain rfl := next_inj h
  rcases s.runEncode_cases with ⟨e, -, -, hrun⟩ | ⟨hcheck, -⟩
  · rw [hrun] at hdone
    exact absurd hdone (statusError_ne_done e)
  · exact hcheck

/-- Settles O41: the decoded file has the registers and the pixel bytes of the Image it was encoded from, so the second
ENCODE passes the same checks and writes the same bytes. -/
theorem encodeIsIdempotent : Obligations.EncodeIsIdempotent := by
  rintro s t u v x ⟨-, -, -, hfmt, -⟩ hexec hdone hcopy hpix hdst hdecode hencode
  have hcheck := encodeCheck_of_done hexec hdone
  obtain ⟨hw, hh, hfile, rfl⟩ := encoded_of_done hexec hdone
  obtain ⟨hwidth, hheight, hformat⟩ := State.decoded_image u hw hh hfmt
  have hparsed := parsed_of_copiedBack hw hh hfile hcopy
  obtain rfl : u.decoded s.encodePlan.geometry = v := (State.runDecode_of_ok hparsed).symm.trans (next_inj hdecode)
  have hcheck' := (State.encodeCheck_congr hwidth hheight hformat hpix hdst).trans hcheck
  obtain rfl := (State.runEncode_of_ok hcheck').symm.trans (next_inj hencode)
  refine ⟨rfl, rfl, fun i hi => State.encoded_byteAt_congr (fun y j hy hj => ?_) ?_⟩
  · exact State.decoded_encoded_pixel hfile hcopy hy hj
  · rwa [State.encoded_dstLen hfile] at hi

end Sys2Proof.Machine
end

section
/-! SUPPORT. ENCODE after DECODE (R188): the plan of a decoded file, the bytes it encodes to, and when these are the
file's own. -/

namespace Sys2Proof.Machine

open Sys2Proof

/-! ### The plan of a decoded file -/

/-- The plan that ENCODE makes of the Image that DECODE makes of a file with geometry `g`. -/
def Geometry.plan (g : Geometry) : EncodePlan := ⟨g.width.toNat, g.absH, g.bpp, g.td⟩

theorem State.decoded_encodePlan (s : State) {S : Nat → Byte} {L : Nat} {g : Geometry} (hL : L < 2 ^ 32)
    (h : parse S L = .ok g) : (s.decoded g).encodePlan = g.plan := by
  have hbpp := bpp_of_parse_ok h
  have hfmt : (s.decoded g).imgFmt = fmtWord g.bpp g.td := rfl
  rw [State.encodePlan, s.decoded_imgW h, s.decoded_imgH hL h, State.bpp, State.topDown, hfmt,
    fmtBpp_fmtWord g.td hbpp, fmtTopDown_fmtWord g.td hbpp, Int.toNat_natCast]
  rfl

theorem plan_stride_of_parse_ok {S : Nat → Byte} {L : Nat} {g : Geometry} (h : parse S L = .ok g) :
    g.plan.stride = g.stride := by
  obtain ⟨rfl, -⟩ := parse_ok h
  rfl

theorem plan_fileSize_of_parse_ok {S : Nat → Byte} {L : Nat} {g : Geometry} (h : parse S L = .ok g) :
    g.plan.fileSize = 54 + g.stride * g.absH := by
  rw [EncodePlan.fileSize, EncodePlan.imageSize, plan_stride_of_parse_ok h]
  rfl

/-- The height field of the plan is the file's, whose sign is the row order (R104). -/
theorem plan_heightField_of_parse_ok {S : Nat → Byte} {L : Nat} {g : Geometry} (h : parse S L = .ok g) :
    g.plan.heightField = g.height := by
  have habs := absH_eq_of_parse_ok h
  have htd := td_eq_of_parse_ok h
  simp only [EncodePlan.heightField, Geometry.plan, htd, habs, decide_eq_true_eq]
  split <;> omega

/-- Of the header fields, those that `parse` checks or takes over are the plan's own. -/
theorem headerFields_iff_of_parse_ok {S : Nat → Byte} {L : Nat} {g : Geometry} (h : parse S L = .ok g) :
    HeaderFields S g.plan ↔
      u32le S 2 = g.plan.fileSize ∧ (∀ k, 6 ≤ k → k < 10 → S k = 0#8) ∧ g.off = 54 ∧ g.dib = 40 ∧
        u32le S 34 = g.plan.imageSize ∧ ∀ k, 38 ≤ k → k < 54 → S k = 0#8 := by
  have hheight := plan_heightField_of_parse_ok h
  obtain ⟨rfl, -, -, h0, h1, h30, hdepth, h26, hw, -, -⟩ := parse_ok h
  have hwidth : i32le S 18 = ((geometryOf S).plan.w : Int) := (Int.toNat_of_nonneg hw.le).symm
  have hbitcnt : u16le S 28 = (geometryOf S).plan.bpp * 8 := by
    have hdepth : u16le S 28 = 24 ∨ u16le S 28 = 32 := hdepth
    have hbpp : (geometryOf S).plan.bpp = u16le S 28 / 8 := rfl
    omega
  constructor
  · rintro ⟨-, h2, h6, h10, h14, -, -, -, -, -, h34, h38⟩
    exact ⟨h2, h6, h10, h14, h34, h38⟩
  · rintro ⟨h2, h6, h10, h14, h34, h38⟩
    exact ⟨⟨h0, h1⟩, h2, h6, h10, h14, hwidth, hheight.symm, h26, hbitcnt, h30, h34, h38⟩

/-! ### The bytes of the second file -/

/-- The state after DECODE and ENCODE of a file whose encoding fits DST. -/
theorem runEncode_decoded {s : State} {g : Geometry} (hinv : StateInv s) (h : s.parsed = .ok g)
    (hdst : g.plan.fileSize ≤ s.cap .dst) : (s.decoded g).runEncode = (s.decoded g).encoded g.plan := by
  obtain ⟨hw, hh, hpix⟩ := State.decoded_imageValid hinv h
  have hplan := s.decoded_encodePlan s.srcLen.isLt h
  have hcheck := State.encodeCheck_of_fits hw hh hpix (by rwa [hplan])
  rw [State.runEncode_of_ok hcheck, hplan]

/-- A pixel byte goes to the mirror of its row and from there back to its row (R161). -/
theorem State.encoded_decoded_pixel (s : State) (g : Geometry) {r k : Nat} (hr : r < g.absH) (hk : k < g.rowBytes) :
    ((s.decoded g).encoded g.plan).byteAt .dst (54 + r * g.plan.stride + k) = s.fileByte g r k := by
  calc ((s.decoded g).encoded g.plan).byteAt .dst (54 + r * g.plan.stride + k)
    _ = (s.decoded g).byteAt .pix (canonicalRow r g.absH g.td * g.rowBytes + k) := State.encoded_pixel _ g.plan hr hk
    _ = s.fileByte g (canonicalRow (canonicalRow r g.absH g.td) g.absH g.td) k :=
      s.decoded_pix_row g (canonicalRow_lt g.td hr) hk
    _ = s.fileByte g r k := by rw [canonicalRow_twice g.td hr]

theorem State.fileByte_of_off {s : State} {g : Geometry} (h : g.off = 54) (r k : Nat) :
    s.fileByte g r k = s.byteAt .src (54 + r * g.stride + k) := by
  rw [State.fileByte, h]

/-- The second file has the bytes of the first exactly when the first has ENCODE's header and zero padding. -/
theorem encoded_decoded_eq_iff {s : State} {g : Geometry} (h : s.parsed = .ok g) (hlegal : g.plan.Legal)
    (hsize : g.plan.fileSize < 2 ^ 32) :
    (∀ i, i < g.plan.fileSize → ((s.decoded g).encoded g.plan).byteAt .dst i = s.byteAt .src i) ↔
      HeaderFields (s.byteAt .src) g.plan ∧
        ∀ r k : Nat, r < g.absH → g.rowBytes ≤ k → k < g.stride → s.fileByte g r k = 0#8 := by
  have hstride := plan_stride_of_parse_ok h
  have hheader := (s.decoded g).encoded_header g.plan
  have hoff (hf : HeaderFields (s.byteAt .src) g.plan) : g.off = 54 := by
    obtain ⟨-, -, hoff, -⟩ := (headerFields_iff_of_parse_ok h).mp hf
    exact hoff
  rw [← sameHeader_iff hlegal hsize] at hoff ⊢
  constructor
  · intro hbytes
    have hsame : SameHeader (s.byteAt .src) g.plan.header := fun i hi =>
      (hbytes i (Nat.lt_add_right _ hi)).symm.trans (hheader i hi)
    refine ⟨hsame, fun r k hr hk hs => ?_⟩
    have hindex : 54 + r * g.plan.stride + k < g.plan.fileSize := by
      have hrow : r * g.plan.stride + k < g.absH * g.plan.stride := row_index_lt hr (by omega)
      have hfile : g.plan.fileSize = 54 + g.absH * g.plan.stride := g.plan.fileSize_eq
      omega
    rw [State.fileByte_of_off (hoff hsame), ← hstride, ← hbytes _ hindex]
    exact State.encoded_padding _ g.plan hr hk (by omega)
  · rintro ⟨hsame, hpad⟩ i hi
    rcases EncodePlan.file_index_cases hi with h54 | ⟨r, k, hr, hk, rfl⟩
    · rw [hheader i h54, hsame i h54]
    · have hfile : s.fileByte g r k = s.byteAt .src (54 + r * g.plan.stride + k) := by
        rw [State.fileByte_of_off (hoff hsame), hstride]
      rw [← hfile]
      by_cases hpix : k < g.rowBytes
      · exact s.encoded_decoded_pixel g hr hpix
      · rw [hpad r k hr (not_lt.mp hpix) (by omega)]
        exact State.encoded_padding _ g.plan hr (not_lt.mp hpix) hk

/-- Settles O42: DECODE and ENCODE run to one state; its file is as long as the first and has its bytes exactly when the
fields that `parse` does not check are ENCODE's, the padding is zero and nothing trails. -/
theorem whenEncodeReproducesTheFile : Obligations.WhenEncodeReproducesTheFile := by
  intro s t v g hinv hok hdst hdecode hencode
  have hsize := plan_fileSize_of_parse_ok hok
  have himage : g.plan.imageSize = g.stride * g.absH := by rw [EncodePlan.fileSize] at hsize; omega
  rw [← hsize] at hdst
  have h32 : g.plan.fileSize < 2 ^ 32 := hdst.trans_lt s.capDst.isLt
  obtain ⟨hw, hh, -⟩ := State.decoded_imageValid hinv hok
  have hlegal := State.encodePlan_legal hw hh
  rw [s.decoded_encodePlan s.srcLen.isLt hok] at hlegal
  obtain rfl := (State.runDecode_of_ok hok).symm.trans (next_inj hdecode)
  obtain rfl := (runEncode_decoded hinv hok hdst).symm.trans (next_inj hencode)
  have hdstLen : ((s.decoded g).encoded g.plan).dstLen.toNat = g.plan.fileSize := State.encoded_dstLen hdst
  have hlen : ((s.decoded g).encoded g.plan).dstLen = s.srcLen ↔ s.srcLen.toNat = g.plan.fileSize := by
    rw [← BitVec.toNat_inj, hdstLen, eq_comm]
  rw [hlen, ← hsize, ← himage]
  constructor
  · rintro ⟨hL, hbytes⟩
    rw [hL] at hbytes
    obtain ⟨hfields, hpad⟩ := (encoded_decoded_eq_iff hok hlegal h32).mp hbytes
    obtain ⟨h2, h6, h10, h14, h34, h38⟩ := (headerFields_iff_of_parse_ok hok).mp hfields
    exact ⟨h14, h10, hL, h2.trans hL.symm, h34, h6, h38, hpad⟩
  · rintro ⟨h14, h10, hL, h2, h34, h6, h38, hpad⟩
    have hfields := (headerFields_iff_of_parse_ok hok).mpr ⟨h2.trans hL, h6, h10, h14, h34, h38⟩
    refine ⟨hL, ?_⟩
    rw [hL]
    exact (encoded_decoded_eq_iff hok hlegal h32).mpr ⟨hfields, hpad⟩

end Sys2Proof.Machine
end

section
/-! SUPPORT. The scripts LOADSRC and COPYBACK (R108): what one step does with each of their operations pending, and what
the whole script leaves. -/

namespace Sys2Proof.Machine

open Sys2Proof

/-! ### Steps with a script pending -/

/-- The state with the operations `ops` pending and nothing else. -/
def State.pending (s : State) (ops : List HostOp) : State := { s with inbox := ops.map .op }

theorem State.issue_eq_pending {s : State} (h : s.inbox = []) (ops : List HostOp) : s.issue ops = s.pending ops := by
  rw [State.issue, h, List.nil_append, State.pending]

theorem State.pending_nil {s : State} (h : s.inbox = []) : s.pending [] = s := by
  rw [State.pending, List.map_nil, ← h]

theorem step_pending (s : State) (t : HostOp) (ops : List HostOp) :
    step (s.pending (t :: ops)) = exec (decodeOp t) (s.pending ops) := step_op rfl

/-- A pending write of SRC below the capacity writes its byte (R222). -/
theorem step_pending_wsrc {s : State} {a : Nat} (ha : a < s.cap .src) (b : Byte) (ops : List HostOp) :
    step (s.pending (⟨1#2, true, BitVec.ofNat 32 a, b.zeroExtend 32⟩ :: ops))
      = .next ((s.withSrc (s.src.set a b)).pending ops) := by
  have hindex : (BitVec.ofNat 32 a).toNat = a := toNat_ofNat_word (ha.trans s.capSrc.isLt)
  have hcap : (s.pending ops).cap .src = s.cap .src := rfl
  rw [step_pending, decodeOp_wsrc, byteOperand_zeroExtend, exec_wsrc, hindex, hcap, if_pos ha]
  rfl

/-- A pending read of DST below the capacity answers its byte (R227). -/
theorem step_pending_rdst {s : State} {a : Nat} (ha : a < s.cap .dst) (ops : List HostOp) :
    step (s.pending (⟨3#2, false, BitVec.ofNat 32 a, 0#32⟩ :: ops))
      = .next ((s.answer ((s.byteAt .dst a).zeroExtend 32)).pending ops) := by
  have hindex : (BitVec.ofNat 32 a).toNat = a := toNat_ofNat_word (ha.trans s.capDst.isLt)
  have hcap : (s.pending ops).cap .dst = s.cap .dst := rfl
  rw [step_pending, decodeOp_rdst, exec_rdst, State.hostByteRead, hindex, hcap, if_pos ha]
  rfl

/-- A pending write of SRC_LEN within the capacity stores its value (R24, R221). -/
theorem step_pending_srcLen {s : State} {v : Word} (hv : v.toNat ≤ s.capSrc.toNat) (ops : List HostOp) :
    step (s.pending (wregOp .srcLen v :: ops)) = .next (State.pending { s with srcLen := v } ops) := by
  have hvalue : srcLenValue (s.pending ops) v = v := (srcLenValue_eq_ite _ v).trans (if_pos hv)
  have hdecode : decodeOp (wregOp .srcLen v) = .wreg (addrOfReg .srcLen) v := rfl
  rw [step_pending, hdecode, exec_wreg, State.hostRegWrite, regOfAddr_addrOfReg]
  simp only [hvalue]
  rfl

/-- A write of SRC_LEN that is the last pending operation ends the script. -/
theorem run_pending_srcLen {s : State} (hinbox : s.inbox = []) {v : Word} (hv : v.toNat ≤ s.capSrc.toNat) :
    core.run 1 (s.pending [wregOp .srcLen v]) = .next { s with srcLen := v } := by
  have hnil : State.pending { s with srcLen := v } [] = { s with srcLen := v } := State.pending_nil hinbox
  rw [run_succ (step_pending_srcLen hv []), run_zero, hnil]

/-! ### LOADSRC -/

/-- The writes of a run of bytes, one a step, write the run. -/
theorem run_writeOps (n : Nat) (ops : List HostOp) (bytes : List Byte) {s : State} {a : Nat}
    (h : a + bytes.length ≤ s.cap .src) :
    core.run (bytes.length + n) (s.pending (writeOps 1#2 a bytes ++ ops))
      = core.run n ((s.withSrc (s.src.setMany a bytes)).pending ops) := by
  induction bytes generalizing s a with
  | nil => rw [List.length_nil, Nat.zero_add]; rfl
  | cons b rest ih =>
    rw [List.length_cons] at h
    have hnext : (a + 1) + rest.length ≤ (s.withSrc (s.src.set a b)).cap .src := by
      rw [State.withSrc_cap]
      omega
    rw [List.length_cons, Nat.add_right_comm, writeOps, List.cons_append,
      run_succ (step_pending_wsrc (by omega) b _), ih hnext]
    rfl

/-- What a byte reads as after a run of bytes from 0 on is written. -/
theorem State.byteAt_src_setMany (s : State) (bytes : List Byte) (i : Nat) :
    (s.withSrc (s.src.setMany 0 bytes)).byteAt .src i = (bytes[i]?).getD (s.byteAt .src i) := by
  rw [State.withSrc_byteAt_src, Memory.get?_setMany, Nat.zero_add, Nat.sub_zero]
  by_cases hi : i < bytes.length
  · rw [if_pos ⟨Nat.zero_le i, hi⟩, List.getElem?_eq_getElem hi]
    rfl
  · rw [if_neg (fun h => hi h.2), List.getElem?_eq_none (not_lt.mp hi)]
    rfl

/-- Settles O22: the writes of the bytes, then the write of their number to SRC_LEN. -/
theorem loadSrcLoadsTheFile : Obligations.LoadSrcLoadsTheFile := by
  intro s bytes hinbox hlen
  have hnumber : (BitVec.ofNat 32 bytes.length).toNat = bytes.length :=
    toNat_ofNat_word (hlen.trans_lt s.capSrc.isLt)
  have hfit : (BitVec.ofNat 32 bytes.length).toNat ≤ (s.withSrc (s.src.setMany 0 bytes)).capSrc.toNat :=
    hnumber.trans_le hlen
  refine ⟨{ s.withSrc (s.src.setMany 0 bytes) with srcLen := BitVec.ofNat 32 bytes.length }, ?_, rfl,
    fun i => s.byteAt_src_setMany bytes i⟩
  rw [State.issue_eq_pending hinbox, loadSrc, run_writeOps 1 _ bytes ((Nat.zero_add _).trans_le hlen)]
  exact run_pending_srcLen (s := s.withSrc (s.src.setMany 0 bytes)) hinbox hfit

/-! ### COPYBACK -/

/-- `n` bytes of DST from index `a` on. -/
def State.dstBytes (s : State) (a n : Nat) : List Byte := (List.range' a n).map (s.byteAt .dst)

/-- The state of a copy under way: SRC is `m`, the last byte read is `r` (R108). -/
def State.copying (s : State) (m : Memory) (r : Word) : State := { s with src := m, rdata := r }

theorem copyOps_add (s : State) (a i j : Nat) : copyOps s a (i + j) = copyOps s a i ++ copyOps s (a + i) j := by
  induction i generalizing a with
  | zero => rw [Nat.zero_add]; rfl
  | succ i ih =>
    rw [Nat.add_right_comm, copyOps, copyOps, ih, Nat.add_right_comm a 1 i]
    rfl

/-- The read of DST[a] and the write of the byte read, below both capacities. -/
theorem run_copyOp {s : State} {a : Nat} (hsrc : a < s.cap .src) (hdst : a < s.cap .dst) (m : Memory) (r : Word)
    (ops : List HostOp) (n : Nat) :
    core.run (n + 1 + 1) ((s.copying m r).pending (copyOps s a 1 ++ ops))
      = core.run n ((s.copying (m.set a (s.byteAt .dst a)) ((s.byteAt .dst a).zeroExtend 32)).pending ops) := by
  have hread := step_pending_rdst (s := s.copying m r) hdst
    (⟨1#2, true, BitVec.ofNat 32 a, (s.byteAt .dst a).zeroExtend 32⟩ :: ops)
  have hwrite := step_pending_wsrc (s := s.copying m ((s.byteAt .dst a).zeroExtend 32)) hsrc (s.byteAt .dst a) ops
  exact (run_succ hread (n + 1)).trans (run_succ hwrite n)

/-- The copy of `n` bytes is a run of writes. -/
theorem run_copyOps (s : State) (k : Nat) (ops : List HostOp) (n : Nat) {a : Nat} (hsrc : a + n ≤ s.cap .src)
    (hdst : a + n ≤ s.cap .dst) (m : Memory) (r : Word) :
    ∃ r', core.run (2 * n + k) ((s.copying m r).pending (copyOps s a n ++ ops))
      = core.run k ((s.copying (m.setMany a (s.dstBytes a n)) r').pending ops) := by
  induction n generalizing a m r with
  | zero => exact ⟨r, by rw [Nat.mul_zero, Nat.zero_add]; rfl⟩
  | succ n ih =>
    obtain ⟨r', hrun⟩ := ih (a := a + 1) (by omega) (by omega) (m.set a (s.byteAt .dst a))
      ((s.byteAt .dst a).zeroExtend 32)
    refine ⟨r', ?_⟩
    rw [show 2 * (n + 1) + k = 2 * n + k + 1 + 1 by omega, Nat.add_comm n 1, copyOps_add, List.append_assoc,
      run_copyOp (by omega) (by omega), hrun, Nat.add_comm 1 n]
    rfl

theorem State.dstBytes_getElem? (s : State) {n i : Nat} (hi : i < n) :
    (s.dstBytes 0 n)[i]? = some (s.byteAt .dst i) := by
  rw [State.dstBytes, List.getElem?_map, List.getElem?_range' hi, Option.map_some, Nat.zero_add, Nat.one_mul]

theorem State.dstBytes_getElem?_beyond (s : State) {n i : Nat} (hi : n ≤ i) : (s.dstBytes 0 n)[i]? = none :=
  List.getElem?_eq_none (by rwa [State.dstBytes, List.length_map, List.length_range'])

/-- Settles O23: the copies of all bytes, then the write of their number to SRC_LEN; and after the copies of `i` bytes, the
read of DST[i], with the write of its byte pending. -/
theorem copyBackCopiesTheFile : Obligations.CopyBackCopiesTheFile := by
  intro s hinbox hsrc hdst
  have hstart (ops : List HostOp) : s.issue ops = (s.copying s.src s.rdata).pending ops :=
    State.issue_eq_pending hinbox ops
  refine ⟨?_, fun i hi => ?_⟩
  · obtain ⟨r, hrun⟩ := run_copyOps s 1 [wregOp .srcLen s.dstLen] s.dstLen.toNat ((Nat.zero_add _).trans_le hsrc)
      ((Nat.zero_add _).trans_le hdst) s.src s.rdata
    have hbyte (i : Nat) := s.byteAt_src_setMany (s.dstBytes 0 s.dstLen.toNat) i
    refine ⟨{ s.copying (s.src.setMany 0 (s.dstBytes 0 s.dstLen.toNat)) r with srcLen := s.dstLen }, ?_,
      ⟨rfl, fun i hi => (hbyte i).trans ?_⟩, rfl, fun i hi => (hbyte i).trans ?_⟩
    · rw [hstart, copyBack, hrun]
      exact run_pending_srcLen (s := s.copying _ r) hinbox hsrc
    · rw [s.dstBytes_getElem? hi, Option.getD_some]
    · rw [s.dstBytes_getElem?_beyond hi, Option.getD_none]
  · obtain ⟨j, hj⟩ : ∃ j, s.dstLen.toNat = i + (j + 1) := ⟨s.dstLen.toNat - i - 1, by omega⟩
    obtain ⟨r, hrun⟩ := run_copyOps s 1 (copyOps s (0 + i) (j + 1) ++ [wregOp .srcLen s.dstLen]) i (a := 0)
      (by rw [State.cap]; omega) (by rw [State.cap]; omega) s.src s.rdata
    have hread : i < (s.copying (s.src.setMany 0 (s.dstBytes 0 i)) r).cap .dst := hi.trans_le hdst
    rw [hstart, copyBack, hj, copyOps_add, List.append_assoc, hrun, Nat.zero_add, copyOps, List.cons_append,
      run_succ (step_pending_rdst hread _), run_zero]
    exact ⟨_, rfl, rfl, rfl⟩

end Sys2Proof.Machine
end

section
/-! SUPPORT. The line loop in closed form (R204, R208, R209): its round `k` is at the point whose coordinates have gone
k / max(dx, −dy) of their way, rounded, so the trace is the list of these points. -/

namespace Sys2Proof.Machine

open Sys2Proof

/-! ### The rounded share of a length -/

/-- `k × len / span`, rounded to the nearest integer and upwards from a half on. -/
def share (span len k : Int) : Int := (2 * k * len + span) / (2 * span)

theorem share_spec {span : Int} (hspan : 0 < span) (len k : Int) :
    2 * span * share span len k ≤ 2 * k * len + span ∧ 2 * k * len + span < 2 * span * share span len k + 2 * span :=
  ⟨Int.mul_ediv_self_le (by omega), Int.lt_mul_ediv_self_add (by omega)⟩

theorem share_eq {span len k c : Int} (hspan : 0 < span) (hlo : 2 * span * c ≤ 2 * k * len + span)
    (hhi : 2 * k * len + span < 2 * span * c + 2 * span) : share span len k = c :=
  ((Int.ediv_emod_unique (r := 2 * k * len + span - 2 * span * c) (by omega)).mpr
    ⟨by ring, by omega, by omega⟩).1

theorem share_zero {span : Int} (hspan : 0 ≤ span) (len : Int) : share span len 0 = 0 := by
  rcases hspan.eq_or_lt with rfl | hpos
  · rw [share, mul_zero, Int.ediv_zero]
  · exact share_eq hpos (by linarith) (by linarith)

theorem share_of_len_zero {span : Int} (hspan : 0 ≤ span) (k : Int) : share span 0 k = 0 := by
  rcases hspan.eq_or_lt with rfl | hpos
  · rw [share, mul_zero (2 : Int), Int.ediv_zero]
  · exact share_eq hpos (by linarith) (by linarith)

/-- The longer coordinate goes one step a round. -/
theorem share_self {span : Int} (hspan : 0 < span) (k : Int) : share span span k = k :=
  share_eq hspan (by linarith) (by linarith)

/-- At the last round the whole length is gone. -/
theorem share_span {span len : Int} (hlen : 0 ≤ len) (hle : len ≤ span) : share span len span = len := by
  rcases (hlen.trans hle).eq_or_lt with rfl | hpos
  · obtain rfl : len = 0 := le_antisymm hle hlen
    rfl
  · exact share_eq hpos (by linarith) (by linarith)

/-- A coordinate moves at round `k` exactly when its half step is due before the other's whole one: the test of R204. -/
theorem share_succ {span len other : Int} (hspan : 0 < span) (hmax : span = max len other) (hlen : 0 ≤ len) (k : Int) :
    share span len (k + 1) = share span len k +
      if (2 * share span len k + 1) * other ≤ 2 * (share span other k + 1) * len then 1 else 0 := by
  rcases max_choice len other with h | h <;> rw [h] at hmax
  · subst hmax
    have hother : other ≤ span := max_eq_left_iff.mp h
    obtain ⟨-, hhi⟩ := share_spec hspan other k
    rw [share_self hspan, share_self hspan, if_pos (by linarith)]
  · subst hmax
    have hle : len ≤ span := max_eq_right_iff.mp h
    obtain ⟨hlo, hhi⟩ := share_spec hspan len k
    rw [share_self hspan k]
    split
    · exact share_eq hspan (by linarith) (by linarith)
    · exact share_eq hspan (by linarith) (by linarith)

theorem share_succ_sub {span len : Int} (hspan : 0 < span) (hlen : 0 ≤ len) (hle : len ≤ span) (k : Int) :
    share span len k ≤ share span len (k + 1) ∧ share span len (k + 1) ≤ share span len k + 1 := by
  rw [share_succ hspan (max_eq_right hle).symm hlen]
  split <;> omega

/-- Between the first and the last round a share lies between 0 and the whole length. -/
theorem share_range {span len k : Int} (hlen : 0 ≤ len) (hle : len ≤ span) (hk0 : 0 ≤ k) (hk : k ≤ span) :
    0 ≤ share span len k ∧ share span len k ≤ len := by
  rcases (hlen.trans hle).eq_or_lt with rfl | hpos
  · obtain rfl : len = 0 := le_antisymm hle hlen
    rw [share_of_len_zero le_rfl]
    exact ⟨le_rfl, le_rfl⟩
  · have hmul : 0 ≤ k * len := mul_nonneg hk0 hlen
    have hmul' : k * len ≤ span * len := mul_le_mul_of_nonneg_right hk hlen
    constructor
    · refine Int.ediv_nonneg ?_ (by omega)
      linarith
    · refine Int.lt_add_one_iff.mp (Int.ediv_lt_of_lt_mul (by omega) ?_)
      linarith

/-- The shares of two lengths stay so close to each other that neither coordinate is ahead by more than a step and a
half. -/
theorem share_lead_le {span len other : Int} (hspan : 0 < span) (hmax : span = max len other) (hlen : 0 ≤ len)
    (hother : 0 ≤ other) (k : Int) :
    2 * ((share span other k + 1) * len - (share span len k + 1) * other) ≤ 3 * len := by
  rcases max_choice len other with h | h <;> rw [h] at hmax <;> subst hmax
  · obtain ⟨hlo, -⟩ := share_spec hspan other k
    rw [share_self hspan k]
    linarith
  · obtain ⟨-, hhi⟩ := share_spec hspan len k
    rw [share_self hspan k]
    linarith

/-! ### The point of a round -/

/-- max(dx, −dy), the number of the last round (R209). -/
def LineSetup.span (l : LineSetup) : Int := max l.dx (-l.dy)

/-- The point at the top of round `k`, and its error term: (x steps to come) × dy + (y steps to come) × dx, counted from
the start (R204). -/
def LineSetup.point (l : LineSetup) (k : Nat) : LinePoint where
  x := l.x0 + l.sx * share l.span l.dx k
  y := l.y0 + l.sy * share l.span (-l.dy) k
  err := (share l.span (-l.dy) k + 1) * l.dx + (share l.span l.dx k + 1) * l.dy

theorem LineSetup.point_eq (l : LineSetup) (k : Nat) :
    l.point k =
      { x := l.x0 + l.sx * share l.span l.dx k
        y := l.y0 + l.sy * share l.span (-l.dy) k
        err := (share l.span (-l.dy) k + 1) * l.dx + (share l.span l.dx k + 1) * l.dy } := rfl

theorem LineSetup.point_x (l : LineSetup) (k : Nat) : (l.point k).x = l.x0 + l.sx * share l.span l.dx k := rfl

theorem LineSetup.point_y (l : LineSetup) (k : Nat) : (l.point k).y = l.y0 + l.sy * share l.span (-l.dy) k := rfl

theorem LineSetup.point_err (l : LineSetup) (k : Nat) :
    (l.point k).err = (share l.span (-l.dy) k + 1) * l.dx + (share l.span l.dx k + 1) * l.dy := rfl

/-- dx and −dy are the distances of the end points, and that many steps sx and sy lead from the first to the last
(R202, R203). -/
abbrev LineSetup.Regular (l : LineSetup) : Prop :=
  l.dx = |l.x1 - l.x0| ∧ l.dy = -|l.y1 - l.y0| ∧ l.x1 = l.x0 + l.sx * l.dx ∧ l.y1 = l.y0 + l.sy * (-l.dy)

theorem lineSetup_regular (w h : Int) (bpp : Nat) (x0 y0 x1 y1 : Int) : (lineSetup w h bpp x0 y0 x1 y1).Regular := by
  refine ⟨rfl, rfl, ?_, ?_⟩
  · show x1 = x0 + (x1 - x0).sign * |x1 - x0|
    rw [Int.sign_mul_abs]
    ring
  · show y1 = y0 + (y1 - y0).sign * (- -|y1 - y0|)
    rw [neg_neg, Int.sign_mul_abs]
    ring

theorem LineSetup.Regular.nonneg {l : LineSetup} (hl : l.Regular) : 0 ≤ l.dx ∧ 0 ≤ -l.dy ∧ 0 ≤ l.span := by
  obtain ⟨hdx, hdy, -⟩ := hl
  have hdx0 : 0 ≤ l.dx := hdx.symm ▸ abs_nonneg _
  have hdy0 : 0 ≤ -l.dy := by rw [hdy, neg_neg]; exact abs_nonneg _
  exact ⟨hdx0, hdy0, hdx0.trans (le_max_left _ _)⟩

theorem LineSetup.Regular.span_nonneg {l : LineSetup} (hl : l.Regular) : 0 ≤ l.span := by
  obtain ⟨-, -, hspan⟩ := hl.nonneg
  exact hspan

theorem LineSetup.dx_le_span (l : LineSetup) : l.dx ≤ l.span := le_max_left _ _

theorem LineSetup.dy_le_span (l : LineSetup) : -l.dy ≤ l.span := le_max_right _ _

theorem LineSetup.count_eq (l : LineSetup) : l.count = l.span.toNat + 1 := rfl

/-- The loop starts at the point of round 0 (R202). -/
theorem LineSetup.Regular.start_eq {l : LineSetup} (hl : l.Regular) : l.start = l.point 0 := by
  have hspan := hl.span_nonneg
  simp only [LineSetup.start, l.point_eq, Nat.cast_zero, share_zero hspan, mul_zero, add_zero, zero_add, one_mul]

/-- The update of R204 as steps of 0 or 1. -/
theorem LineSetup.advance_eq (l : LineSetup) (p : LinePoint) :
    l.advance p =
      { x := p.x + l.sx * (if l.dy ≤ 2 * p.err then 1 else 0)
        y := p.y + l.sy * (if 2 * p.err ≤ l.dx then 1 else 0)
        err := p.err + (if l.dy ≤ 2 * p.err then 1 else 0) * l.dy + (if 2 * p.err ≤ l.dx then 1 else 0) * l.dx } := by
  rw [LineSetup.advance]
  by_cases hx : l.dy ≤ 2 * p.err <;> by_cases hy : 2 * p.err ≤ l.dx <;> simp [hx, hy]

/-- The update leads from the point of a round to that of the next: its tests are those of `share_succ`. -/
theorem LineSetup.Regular.advance_point {l : LineSetup} (hl : l.Regular) (hspan : 0 < l.span) (k : Nat) :
    l.advance (l.point k) = l.point (k + 1) := by
  obtain ⟨hdx, hdy, -⟩ := hl.nonneg
  have hx := share_succ hspan (show l.span = max l.dx (-l.dy) from rfl) hdx k
  have hy := share_succ hspan (show l.span = max (-l.dy) l.dx from max_comm _ _) hdy k
  have hxtest : l.dy ≤ 2 * (l.point k).err ↔
      (2 * share l.span l.dx k + 1) * -l.dy ≤ 2 * (share l.span (-l.dy) k + 1) * l.dx := by
    rw [l.point_err]
    constructor <;> intro h <;> linarith
  have hytest : 2 * (l.point k).err ≤ l.dx ↔
      (2 * share l.span (-l.dy) k + 1) * l.dx ≤ 2 * (share l.span l.dx k + 1) * -l.dy := by
    rw [l.point_err]
    constructor <;> intro h <;> linarith
  simp only [l.advance_eq, hxtest, hytest]
  simp only [l.point_eq, Nat.cast_succ, hx, hy]
  rw [LinePoint.mk.injEq]
  exact ⟨by ring, by ring, by ring⟩

theorem LineSetup.Regular.sx_ne_zero {l : LineSetup} (hl : l.Regular) (h : l.dx ≠ 0) : l.sx ≠ 0 := by
  obtain ⟨hdx, -, hx1, -⟩ := hl
  intro hsx
  apply h
  rw [hdx, hx1, hsx, zero_mul, add_zero, sub_self, abs_zero]

theorem LineSetup.Regular.sy_ne_zero {l : LineSetup} (hl : l.Regular) (h : l.dy ≠ 0) : l.sy ≠ 0 := by
  obtain ⟨-, hdy, -, hy1⟩ := hl
  intro hsy
  apply h
  rw [hdy, hy1, hsy, zero_mul, add_zero, sub_self, abs_zero, neg_zero]

/-- The points of different rounds differ in the longer coordinate, which moves in every round. -/
theorem LineSetup.Regular.point_inj {l : LineSetup} (hl : l.Regular) (hspan : 0 < l.span) {j k : Nat}
    (hx : (l.point j).x = (l.point k).x) (hy : (l.point j).y = (l.point k).y) : j = k := by
  rcases max_choice l.dx (-l.dy) with h | h
  · have hdx : l.dx = l.span := h.symm
    have hsx := hl.sx_ne_zero (by omega)
    simp only [l.point_x, hdx, share_self hspan] at hx
    exact Int.ofNat_inj.mp (mul_left_cancel₀ hsx (add_left_cancel hx))
  · have hdy : -l.dy = l.span := h.symm
    have hsy := hl.sy_ne_zero (by omega)
    simp only [l.point_y, hdy, share_self hspan] at hy
    exact Int.ofNat_inj.mp (mul_left_cancel₀ hsy (add_left_cancel hy))

/-- The point of the last round is the end point (R209). -/
theorem LineSetup.Regular.atEnd_span {l : LineSetup} (hl : l.Regular) : l.atEnd (l.point l.span.toNat) := by
  obtain ⟨hdx, hdy, hspan⟩ := hl.nonneg
  obtain ⟨-, -, hx1, hy1⟩ := hl
  simp only [LineSetup.atEnd, l.point_x, l.point_y, Int.toNat_of_nonneg hspan, share_span hdx l.dx_le_span,
    share_span hdy l.dy_le_span, ← hx1, ← hy1, and_self]

/-- The exit test of R204 holds at the last round and at none before (R209). -/
theorem LineSetup.Regular.atEnd_point_iff {l : LineSetup} (hl : l.Regular) {k : Nat} (hk : k ≤ l.span.toNat) :
    l.atEnd (l.point k) ↔ k = l.span.toNat := by
  refine ⟨fun h => ?_, fun h => h ▸ hl.atEnd_span⟩
  obtain ⟨hx, hy⟩ := hl.atEnd_span
  rcases hl.span_nonneg.eq_or_lt with hzero | hpos
  · omega
  · exact hl.point_inj hpos (h.1.trans hx.symm) (h.2.trans hy.symm)

/-! ### The trace -/

/-- From round `k` on the loop visits the points of the rounds up to the last, as far as its bound allows. -/
theorem LineSetup.Regular.trace_point {l : LineSetup} (hl : l.Regular) (n : Nat) {k : Nat} (hk : k ≤ l.span.toNat) :
    l.trace n (l.point k) = ((List.range' k (l.span.toNat + 1 - k)).map l.point).take n := by
  induction n generalizing k with
  | zero => rw [LineSetup.trace, List.take_zero]
  | succ n ih =>
    rw [LineSetup.trace, show l.span.toNat + 1 - k = (l.span.toNat - k) + 1 by omega, List.range'_succ, List.map_cons,
      List.take_succ_cons]
    by_cases hend : k = l.span.toNat
    · rw [if_pos ((hl.atEnd_point_iff hk).mpr hend), show l.span.toNat - k = 0 by omega, List.range'_zero, List.map_nil,
        List.take_nil]
    · rw [if_neg (fun h => hend ((hl.atEnd_point_iff hk).mp h)), hl.advance_point (by omega), ih (by omega),
        show l.span.toNat + 1 - (k + 1) = l.span.toNat - k by omega]

/-- The trace of the line in closed form. -/
theorem LineSetup.Regular.trace_start {l : LineSetup} (hl : l.Regular) (n : Nat) :
    l.trace n l.start = ((List.range l.count).map l.point).take n := by
  rw [hl.start_eq, hl.trace_point n (Nat.zero_le _), List.range_eq_range']
  rfl

theorem LineSetup.Regular.trace_of_count_le {l : LineSetup} (hl : l.Regular) {n : Nat} (hn : l.count ≤ n) :
    l.trace n l.start = (List.range l.count).map l.point := by
  rw [hl.trace_start, List.take_of_length_le]
  rwa [List.length_map, List.length_range]

theorem LineSetup.Regular.mem_trace {l : LineSetup} (hl : l.Regular) {p : LinePoint} :
    p ∈ l.trace l.count l.start ↔ ∃ k : Nat, (k : Int) ≤ l.span ∧ l.point k = p := by
  have hspan := hl.span_nonneg
  rw [hl.trace_of_count_le le_rfl, List.mem_map]
  refine exists_congr fun k => and_congr_left fun _ => ?_
  rw [List.mem_range, l.count_eq]
  omega

/-- Settles O46: the trace is the list of the points of rounds 0 to max(dx, −dy). -/
theorem lineLoopEndsAtTheEndPoint : Obligations.LineLoopEndsAtTheEndPoint := by
  intro w h bpp x0 y0 x1 y1 l
  have hl : l.Regular := lineSetup_regular w h bpp x0 y0 x1 y1
  have hspan : l.span = max |x1 - x0| |y1 - y0| := congrArg (max |x1 - x0|) (neg_neg |y1 - y0|)
  have htrace := hl.trace_of_count_le (le_refl l.count)
  refine ⟨?_, ?_, ?_, ⟨l.point l.span.toNat, ?_, hl.atEnd_span⟩, fun n hn => ?_⟩
  · rw [htrace, List.length_map, List.length_range]
  · rw [l.count_eq, Nat.cast_succ, Int.toNat_of_nonneg hl.span_nonneg, hspan]
  · rw [htrace, List.head?_map, l.count_eq, List.head?_range, if_neg (Nat.succ_ne_zero _), Option.map_some,
      ← hl.start_eq]
    rfl
  · rw [htrace, List.getLast?_map, l.count_eq, List.getLast?_range, if_neg (Nat.succ_ne_zero _)]
    rfl
  · rw [hl.trace_of_count_le hn, htrace]

/-- The error term at the top of a round (R208). -/
theorem LineSetup.Regular.point_err_bounds {l : LineSetup} (hl : l.Regular) (k : Nat) :
    3 * l.dy ≤ 2 * (l.point k).err ∧ 2 * (l.point k).err ≤ 3 * l.dx := by
  obtain ⟨hdx, hdy, hspan⟩ := hl.nonneg
  rw [l.point_err]
  rcases hspan.eq_or_lt with hzero | hpos
  · have hdx0 : l.dx = 0 := by have := l.dx_le_span; omega
    have hdy0 : l.dy = 0 := by have := l.dy_le_span; omega
    simp [hdx0, hdy0]
  · have hx := share_lead_le hpos (show l.span = max l.dx (-l.dy) from rfl) hdx hdy k
    have hy := share_lead_le hpos (show l.span = max (-l.dy) l.dx from max_comm _ _) hdy hdx k
    constructor <;> linarith

/-- Settles O47: every point of the trace is the point of a round. -/
theorem lineErrorTermBounds : Obligations.LineErrorTermBounds := by
  intro w h bpp x0 y0 x1 y1 p hp
  have hl := lineSetup_regular w h bpp x0 y0 x1 y1
  obtain ⟨k, -, rfl⟩ := hl.mem_trace.mp hp
  obtain ⟨hlo, hhi⟩ := hl.point_err_bounds k
  have hdx : (lineSetup w h bpp x0 y0 x1 y1).dx = |x1 - x0| := rfl
  have hdy : (lineSetup w h bpp x0 y0 x1 y1).dy = -|y1 - y0| := rfl
  omega

/-! ### The steps of the two coordinates -/

/-- Steps that lead over the same length lead over the same shares of it: over none, whatever the steps, where the length
is 0. -/
theorem mul_share_congr {span len s s' : Int} (hspan : 0 ≤ span) (h : s * len = s' * len) (k : Int) :
    s * share span len k = s' * share span len k := by
  by_cases hlen : len = 0
  · rw [hlen, share_of_len_zero hspan, mul_zero, mul_zero]
  · rw [mul_right_cancel₀ hlen h]

/-- Settles O49: with the other steps too the set-up leads from the first end point to the last, so each round is at the
same point. -/
theorem signAtZeroIsNeverUsed : Obligations.SignAtZeroIsNeverUsed := by
  intro w h bpp x0 y0 x1 y1 a b n l m
  have hl : l.Regular := lineSetup_regular w h bpp x0 y0 x1 y1
  obtain ⟨-, -, hx1, hy1⟩ := lineSetup_regular w h bpp x0 y0 x1 y1
  have hspan := hl.span_nonneg
  have hsx : m.sx * l.dx = l.sx * l.dx := by
    show (if x1 = x0 then a else l.sx) * |x1 - x0| = l.sx * |x1 - x0|
    split
    · next heq => rw [heq, sub_self, abs_zero, mul_zero, mul_zero]
    · rfl
  have hsy : m.sy * -l.dy = l.sy * -l.dy := by
    show (if y1 = y0 then b else l.sy) * - -|y1 - y0| = l.sy * - -|y1 - y0|
    split
    · next heq => rw [heq, sub_self, abs_zero, neg_zero, neg_zero, mul_zero, mul_zero]
    · rfl
  have hm : m.Regular := ⟨rfl, rfl, hx1.trans (congrArg (x0 + ·) hsx.symm), hy1.trans (congrArg (y0 + ·) hsy.symm)⟩
  have hpoint (k : Nat) : m.point k = l.point k := by
    rw [m.point_eq, l.point_eq, LinePoint.mk.injEq]
    exact ⟨congrArg (x0 + ·) (mul_share_congr hspan hsx k), congrArg (y0 + ·) (mul_share_congr hspan hsy k), rfl⟩
  rw [hm.trace_start, hl.trace_start, funext hpoint]
  rfl

theorem lineSetup_steps (w h : Int) (bpp : Nat) (x0 y0 x1 y1 : Int) :
    ((lineSetup w h bpp x0 y0 x1 y1).sx = 1 ∨ (lineSetup w h bpp x0 y0 x1 y1).sx = 0 ∨
      (lineSetup w h bpp x0 y0 x1 y1).sx = -1) ∧
    ((lineSetup w h bpp x0 y0 x1 y1).sy = 1 ∨ (lineSetup w h bpp x0 y0 x1 y1).sy = 0 ∨
      (lineSetup w h bpp x0 y0 x1 y1).sy = -1) := by
  have hsign (n : Int) : n.sign = 1 ∨ n.sign = 0 ∨ n.sign = -1 := by
    rcases lt_trichotomy n 0 with hn | rfl | hn
    · exact .inr (.inr (Int.sign_eq_neg_one_of_neg hn))
    · exact .inr (.inl rfl)
    · exact .inl (Int.sign_eq_one_of_pos hn)
  exact ⟨hsign _, hsign _⟩

/-- A step of −1, 0 or 1, taken or not, moves a coordinate by at most 1. -/
theorem abs_mul_sub_le_one {a s u v : Int} (hs : s = 1 ∨ s = 0 ∨ s = -1) (hlo : u ≤ v) (hhi : v ≤ u + 1) :
    |a + s * v - (a + s * u)| ≤ 1 := by
  rw [abs_le]
  rcases hs with rfl | rfl | rfl <;> constructor <;> omega

/-- Steps of −1, 0 or 1 over a part of a length stay between its ends. -/
theorem between_of_le {a b s u len : Int} (hs : s = 1 ∨ s = 0 ∨ s = -1) (hb : b = a + s * len) (hlo : 0 ≤ u)
    (hhi : u ≤ len) : min a b ≤ a + s * u ∧ a + s * u ≤ max a b := by
  rcases hs with rfl | rfl | rfl <;> omega

/-- Settles O48: the points of two rounds differ, those of consecutive ones by at most a step in each coordinate, and no
share exceeds its length. -/
theorem linePointsAreAConnectedPath : Obligations.LinePointsAreAConnectedPath := by
  intro w h bpp x0 y0 x1 y1 l tr
  have hl : l.Regular := lineSetup_regular w h bpp x0 y0 x1 y1
  obtain ⟨hsx, hsy⟩ := lineSetup_steps w h bpp x0 y0 x1 y1
  obtain ⟨hdx, hdy, hspan⟩ := hl.nonneg
  have htrace : tr = (List.range l.count).map l.point := hl.trace_of_count_le le_rfl
  have hget {k : Nat} {p : LinePoint} (hp : tr[k]? = some p) : k < l.count ∧ p = l.point k := by
    rw [htrace, List.getElem?_map, Option.map_eq_some_iff] at hp
    obtain ⟨j, hj, rfl⟩ := hp
    obtain ⟨hk, rfl⟩ := List.getElem?_eq_some_iff.mp hj
    exact ⟨by simpa using hk, by simp⟩
  refine ⟨?_, fun k p q hp hq => ?_, fun p hp => ?_⟩
  · rw [htrace, List.map_map]
    refine List.Nodup.map_on (fun j hj k hk heq => ?_) List.nodup_range
    rw [List.mem_range, l.count_eq] at hj hk
    obtain ⟨hx, hy⟩ := Prod.mk.inj heq
    rcases hspan.eq_or_lt with hzero | hpos
    · omega
    · exact hl.point_inj hpos hx hy
  · obtain ⟨-, rfl⟩ := hget hp
    obtain ⟨hk, rfl⟩ := hget hq
    have hpos : 0 < l.span := by rw [l.count_eq] at hk; omega
    obtain ⟨hxlo, hxhi⟩ := share_succ_sub hpos hdx l.dx_le_span k
    obtain ⟨hylo, hyhi⟩ := share_succ_sub hpos hdy l.dy_le_span k
    exact ⟨abs_mul_sub_le_one hsx hxlo hxhi, abs_mul_sub_le_one hsy hylo hyhi⟩
  · obtain ⟨k, hk, rfl⟩ := hl.mem_trace.mp hp
    obtain ⟨-, -, hx1, hy1⟩ := hl
    obtain ⟨hxlo, hxhi⟩ := share_range hdx l.dx_le_span (Int.natCast_nonneg k) hk
    obtain ⟨hylo, hyhi⟩ := share_range hdy l.dy_le_span (Int.natCast_nonneg k) hk
    obtain ⟨hx, hx'⟩ := between_of_le hsx hx1 hxlo hxhi
    obtain ⟨hy, hy'⟩ := between_of_le hsy hy1 hylo hyhi
    exact ⟨hx, hx', hy, hy'⟩

end Sys2Proof.Machine
end

section
/-! SUPPORT. What LINE does to every byte of PIX (R205, R206): the pixels of the visited points become opaque black, all
other bytes stay; and the diagonal of a square Image as the clipped part of a line (R211). -/

namespace Sys2Proof.Machine

open Sys2Proof

/-! ### Plotting a list of points -/

theorem blackPixel_getElem? {bpp c : Nat} (h : bpp = 3 ∨ bpp = 4) (hc : c < bpp) :
    (blackPixel bpp)[c]? = some (if c = 3 then 0xFF#8 else 0x00#8) := by
  rcases h with rfl | rfl
  · obtain rfl | rfl | rfl : c = 0 ∨ c = 1 ∨ c = 2 := by omega
    all_goals rfl
  · obtain rfl | rfl | rfl | rfl : c = 0 ∨ c = 1 ∨ c = 2 ∨ c = 3 := by omega
    all_goals rfl

/-- A byte of pixel (x, y) lies among the bytes of pixel (x', y') exactly when the two are one pixel. -/
theorem pixelIndex_mem_iff {w bpp x y c x' y' : Nat} (hx : x < w) (hx' : x' < w) (hc : c < bpp) :
    (pixelIndex w bpp x' y' 0 ≤ pixelIndex w bpp x y c ∧ pixelIndex w bpp x y c < pixelIndex w bpp x' y' 0 + bpp) ↔
      x' = x ∧ y' = y := by
  simp only [pixelIndex, Nat.add_zero]
  constructor
  · rintro ⟨hlo, hhi⟩
    have hpixel : y' * w + x' = y * w + x := by
      by_contra hne
      obtain ⟨j, hj⟩ := Nat.exists_eq_add_of_le hlo
      exact row_index_ne (n := bpp) (j := j) (k := c) hne (by omega) hc hj.symm
    obtain rfl : y' = y := by
      by_contra hne
      exact row_index_ne hne hx' hx hpixel
    exact ⟨Nat.add_left_cancel hpixel, rfl⟩
  · rintro ⟨rfl, rfl⟩
    omega

section Plot

variable {l : LineSetup} (hb : l.bpp = 3 ∨ l.bpp = 4)

include hb

/-- `plot` at a byte of a pixel of the window. -/
theorem LineSetup.plot_get? (q : LinePoint) (m : Memory) {x y c : Nat} (hx : (x : Int) < l.w) (hy : (y : Int) < l.h)
    (hc : c < l.bpp) :
    (l.plot q m).get? (pixelIndex l.w.toNat l.bpp x y c) =
      if q.x = x ∧ q.y = y then some (if c = 3 then 0xFF#8 else 0x00#8)
      else m.get? (pixelIndex l.w.toNat l.bpp x y c) := by
  by_cases hin : l.inside q
  · have hin' := hin
    obtain ⟨hx0, hxw, hy0, hyh⟩ := hin'
    have hsame : q.x.toNat = x ∧ q.y.toNat = y ↔ q.x = x ∧ q.y = y := by omega
    rw [l.plot_inside q m hin hb]
    refine if_ctx_congr ((pixelIndex_mem_iff (by omega) (by omega) hc).trans hsame) (fun h => ?_) fun _ => rfl
    rw [h.1, h.2, Int.toNat_natCast, Int.toNat_natCast, ← blackPixel_getElem? hb hc, pixelIndex, pixelIndex,
      Nat.add_zero, Nat.add_sub_cancel_left]
  · rw [l.plot_outside q m hin, if_neg]
    rintro ⟨hqx, hqy⟩
    exact hin ⟨by omega, by omega, by omega, by omega⟩

/-- After plotting a list of points a byte of a window pixel is black's if the pixel is in the list, else as before. -/
theorem LineSetup.foldl_plot_get? (points : List LinePoint) (m : Memory) {x y c : Nat} (hx : (x : Int) < l.w)
    (hy : (y : Int) < l.h) (hc : c < l.bpp) :
    ((∃ p ∈ points, p.x = x ∧ p.y = y) →
      (points.foldl (fun m q => l.plot q m) m).get? (pixelIndex l.w.toNat l.bpp x y c)
        = some (if c = 3 then 0xFF#8 else 0x00#8)) ∧
    ((¬ ∃ p ∈ points, p.x = x ∧ p.y = y) →
      (points.foldl (fun m q => l.plot q m) m).get? (pixelIndex l.w.toNat l.bpp x y c)
        = m.get? (pixelIndex l.w.toNat l.bpp x y c)) := by
  induction points generalizing m with
  | nil => exact ⟨fun ⟨_, hp, _⟩ => absurd hp List.not_mem_nil, fun _ => rfl⟩
  | cons q rest ih =>
    rw [List.foldl_cons]
    obtain ⟨hhit, hmiss⟩ := ih (l.plot q m)
    by_cases hrest : ∃ p ∈ rest, p.x = x ∧ p.y = y
    · refine ⟨fun _ => hhit hrest, fun hnot => absurd ?_ hnot⟩
      obtain ⟨p, hp, hxy⟩ := hrest
      exact ⟨p, List.mem_cons_of_mem q hp, hxy⟩
    · rw [hmiss hrest, LineSetup.plot_get? hb q m hx hy hc]
      constructor
      · rintro ⟨p, hp, hxy⟩
        rcases List.mem_cons.mp hp with rfl | hp
        · exact if_pos hxy
        · exact absurd ⟨p, hp, hxy⟩ hrest
      · exact fun hnot => if_neg fun hxy => hnot ⟨q, List.mem_cons_self, hxy⟩

/-- No plot touches a byte beyond the window's pixels (R206). -/
theorem LineSetup.foldl_plot_get?_beyond (points : List LinePoint) (m : Memory) {i : Nat}
    (hi : l.w.toNat * l.h.toNat * l.bpp ≤ i) : (points.foldl (fun m q => l.plot q m) m).get? i = m.get? i := by
  induction points generalizing m with
  | nil => rfl
  | cons q rest ih =>
    rw [List.foldl_cons, ih]
    by_cases hin : l.inside q
    · have hin' := hin
      obtain ⟨hx0, hxw, hy0, hyh⟩ := hin'
      have hbound : pixelIndex l.w.toNat l.bpp q.x.toNat q.y.toNat 0 + l.bpp ≤ l.w.toNat * l.h.toNat * l.bpp :=
        pixelIndex_bound (by omega) (by omega)
      rw [l.plot_inside q m hin hb, if_neg (by omega)]
    · rw [l.plot_outside q m hin]

end Plot

/-! ### The effect of LINE -/

theorem State.afterLine_byteAt_pix (s : State) (i : Nat) :
    s.afterLine.byteAt .pix i
      = (((s.lineSetup.trace s.lineSetup.count s.lineSetup.start).foldl (fun m q => s.lineSetup.plot q m) s.pix).get? i).getD
        (Config.resetByte s.resets .pix i) := by
  rw [State.afterLine, State.complete_byteAt, State.withPix_byteAt_pix, LineSetup.loop_eq_foldl]

/-- A byte of a pixel of the window after LINE (R205). -/
theorem State.afterLine_pixel (s : State) {x y c : Nat} (hx : (x : Int) < s.imgW) (hy : (y : Int) < s.imgH)
    (hc : c < s.bpp) :
    (s.lineSetup.visits x y →
      s.afterLine.byteAt .pix (pixelIndex s.imgW.toNat s.bpp x y c) = if c = 3 then 0xFF#8 else 0x00#8) ∧
    (¬ s.lineSetup.visits x y →
      s.afterLine.byteAt .pix (pixelIndex s.imgW.toNat s.bpp x y c)
        = s.byteAt .pix (pixelIndex s.imgW.toNat s.bpp x y c)) := by
  obtain ⟨hhit, hmiss⟩ := LineSetup.foldl_plot_get? (l := s.lineSetup) (fmtBpp_eq s.imgFmt)
    (s.lineSetup.trace s.lineSetup.count s.lineSetup.start) s.pix hx hy hc
  rw [State.afterLine_byteAt_pix]
  exact ⟨fun h => congrArg (Option.getD · _) (hhit h), fun h => congrArg (Option.getD · _) (hmiss h)⟩

/-- LINE leaves every byte beyond the window's pixels (R206). -/
theorem State.afterLine_beyond (s : State) {i : Nat} (hi : s.imgW.toNat * s.imgH.toNat * s.bpp ≤ i) :
    s.afterLine.byteAt .pix i = s.byteAt .pix i := by
  rw [State.afterLine_byteAt_pix]
  exact congrArg (Option.getD · _)
    (LineSetup.foldl_plot_get?_beyond (l := s.lineSetup) (fmtBpp_eq s.imgFmt) _ s.pix hi)

/-- LINE leaves every byte of PIX where the window is empty (R207). -/
theorem State.afterLine_of_empty {s : State} (h : s.imgW ≤ 0 ∨ s.imgH ≤ 0) (i : Nat) :
    s.afterLine.byteAt .pix i = s.byteAt .pix i := by
  refine s.afterLine_beyond (le_of_eq_of_le ?_ (Nat.zero_le i))
  rcases h with h | h
  · rw [Int.toNat_of_nonpos h, Nat.zero_mul, Nat.zero_mul]
  · rw [Int.toNat_of_nonpos h, Nat.mul_zero, Nat.zero_mul]

/-- Settles O45: without Capacity LINE runs to `State.afterLine`, which plots the points of the trace. -/
theorem lineColoursVisitedPoints : Obligations.LineColoursVisitedPoints := by
  intro s hfits
  refine ⟨s.afterLine, congrArg _ (State.runLine_of_fits hfits), rfl, fun x y c hx hy hc => s.afterLine_pixel hx hy hc,
    fun hempty i => State.afterLine_of_empty hempty i, fun i hi => ?_⟩
  by_cases hempty : s.imgW ≤ 0 ∨ s.imgH ≤ 0
  · exact State.afterLine_of_empty hempty i
  · have hbytes : ((s.imgW.toNat * s.imgH.toNat * s.bpp : Nat) : Int) = s.imageBytes :=
      State.encodePlan_pixelBytes (by omega) (by omega)
    exact s.afterLine_beyond (by omega)

/-! ### The diagonal of a square Image (R211) -/

/-- A line with both coordinates growing by the same length goes along the diagonal, one step a round. -/
theorem lineSetup_diagonal (w h : Int) (bpp : Nat) (a : Int) {len : Int} (hlen : 0 < len) :
    (lineSetup w h bpp a a (a + len) (a + len)).span = len ∧
      ∀ k : Nat, ((lineSetup w h bpp a a (a + len) (a + len)).point k).x = a + k ∧
        ((lineSetup w h bpp a a (a + len) (a + len)).point k).y = a + k := by
  have hdist : |a + len - a| = len := by rw [add_sub_cancel_left, abs_of_pos hlen]
  have hsign : (a + len - a).sign = 1 := by rw [add_sub_cancel_left, Int.sign_eq_one_of_pos hlen]
  have hspan : (lineSetup w h bpp a a (a + len) (a + len)).span = len := by
    simp only [LineSetup.span, lineSetup, hdist, neg_neg, max_self]
  refine ⟨hspan, fun k => ?_⟩
  simp only [LineSetup.point_x, LineSetup.point_y, hspan]
  simp only [lineSetup, hdist, hsign, neg_neg, share_self hlen, one_mul, and_self]

theorem visits_diagonal_iff (w h : Int) (bpp : Nat) (a : Int) {len : Int} (hlen : 0 < len) {x y : Int} :
    (lineSetup w h bpp a a (a + len) (a + len)).visits x y ↔ x = y ∧ a ≤ x ∧ x ≤ a + len := by
  obtain ⟨hspan, hpoint⟩ := lineSetup_diagonal w h bpp a hlen
  have hregular := lineSetup_regular w h bpp a a (a + len) (a + len)
  constructor
  · rintro ⟨p, hp, rfl, rfl⟩
    obtain ⟨k, hk, rfl⟩ := hregular.mem_trace.mp hp
    obtain ⟨hx, hy⟩ := hpoint k
    omega
  · rintro ⟨rfl, hlo, hhi⟩
    obtain ⟨k, hk⟩ := Int.eq_ofNat_of_zero_le (sub_nonneg.mpr hlo)
    obtain ⟨hx, hy⟩ := hpoint k
    exact ⟨_, hregular.mem_trace.mpr ⟨k, by omega, rfl⟩, by omega, by omega⟩

/-- Settles O50: the points of the line in the window are those of the diagonal, and the Image fits PIX. -/
theorem squareClippingColoursTheDiagonal : Obligations.SquareClippingColoursTheDiagonal := by
  intro s n hn hw hh hpix hx0 hy0 hx1 hy1
  have hwidth : s.imgW.toNat = n := by rw [hw, Int.toNat_natCast]
  have hheight : s.imgH.toNat = n := by rw [hh, Int.toNat_natCast]
  have hfits : ¬ s.lineTooBig := by
    rintro ⟨hw0, hh0, hbig⟩
    have hbytes : ((s.imgW.toNat * s.imgH.toNat * s.bpp : Nat) : Int) = s.imageBytes :=
      State.encodePlan_pixelBytes hw0 hh0
    rw [hwidth, hheight] at hbytes
    exact absurd (Int.ofNat_le.mpr hpix) (not_le.mpr (hbytes ▸ hbig))
  have hsetup : s.lineSetup = lineSetup n n s.bpp (-5) (-5) (-5 + (n + 10)) (-5 + (n + 10)) := by
    rw [State.lineSetup, hw, hh, hx0, hy0, hx1, hy1, show (n : Int) + 5 = -5 + (n + 10) by ring]
  have hvisits (x y : Nat) (hx : x < n) : s.lineSetup.visits x y ↔ x = y := by
    rw [hsetup, visits_diagonal_iff _ _ _ _ (by omega)]
    omega
  refine ⟨s.afterLine, congrArg _ (State.runLine_of_fits hfits), rfl, fun x y c hx hy hc => ?_, fun i hi => ?_⟩
  · obtain ⟨hhit, hmiss⟩ := s.afterLine_pixel (x := x) (y := y) (by omega) (by omega) hc
    rw [hvisits x y hx, hwidth] at hhit hmiss
    split
    · next heq => exact hhit heq
    · next hne => exact hmiss hne
  · exact s.afterLine_beyond (by rwa [hwidth, hheight])

end Sys2Proof.Machine
end
